-- ==== Sys2Proof/Word.lean ====
section
/-! DEFINITION. The word types of the CORE (00_scope.md R6, R9; 30_encoding.md R71; 10_state.md R33, R41). All values are unsigned (R10). -/

namespace Sys2Proof

/-- A byte: a general register, a timer, a memory cell, the immediate NN. -/
abbrev Byte := BitVec 8

/-- A 16-bit word: an instruction word, I, PC, a stack entry. -/
abbrev Word := BitVec 16

/-- A 4-bit field of an instruction word (the op nibble, the row count N). -/
abbrev Nibble := BitVec 4

/-- The X or Y field: a register number, every value of which names a register (30_encoding.md R72). -/
abbrev RegIdx := BitVec 4

/-- The 12-bit immediate NNN. -/
abbrev Addr := BitVec 12

/-- The sixteen key states; bit k is key k, 1 = pressed (10_state.md R32, R41 `keys_in`). -/
abbrev Keys := BitVec 16

/-- One framebuffer row of 64 one-bit cells; bit x is the cell in column x (10_state.md R33). -/
abbrev FrameRow := BitVec 64

/-- The framebuffer: 32 rows of 64 cells (10_state.md R33). -/
abbrev Frame := Vector FrameRow 32

end Sys2Proof
end

