-- ==== Sys2Proof/Machine/Flags.lean ====
section
/-! DEFINITION. The flag computations: what VF is written with (10_state.md R22; 43_alu.md R138 to R142; 45_display.md R161). -/

namespace Sys2Proof.Machine

/-- A flag fills all eight bits of VF: 0x00 or 0x01 (10_state.md R22). -/
def flagByte (b : Bool) : Byte := if b then 1#8 else 0#8

/-- VF is register 15 (10_state.md R22). -/
abbrev vf : RegIdx := 0xF#4

/-- Carry out of an 8-bit add: the sum is above 255 (43_alu.md R138). -/
def carryOut (a b : Byte) : Bool := decide (255 < a.toNat + b.toNat)

/-- No borrow in a - b: a ≥ b (43_alu.md R139, R141). -/
def noBorrow (a b : Byte) : Bool := decide (b.toNat ≤ a.toNat)

/-- The bit a right shift puts out (43_alu.md R140). -/
def lsbOf (a : Byte) : Bool := a.getLsbD 0

/-- The bit a left shift puts out (43_alu.md R142). -/
def msbOf (a : Byte) : Bool := a.getLsbD 7

end Sys2Proof.Machine
end

