-- ==== Sys2Proof/Config.lean ====
section
/-! DEFINITION. What is fixed for the machine (00_scope.md R6) and the free values the spec leaves open (00_scope.md R7). -/

namespace Sys2Proof.Config

/-- MEM_SIZE: addresses are 0 to 4095. -/
@[simp] abbrev memSize : Nat := 4096

/-- The highest address of memory and the highest value of PC. -/
@[simp] abbrev lastAddr : Nat := 4095

/-- FONT_SIZE: the font stands at addresses 0 to 79 (FONT_BASE = 0). -/
@[simp] abbrev fontSize : Nat := 80

/-- ROM_BASE, also PC_RESET (the spec's decision D1; log 1). -/
@[simp] abbrev romBase : Nat := 512

/-- ROM_MAX: the longest ROM, 4096 - 512 bytes. -/
@[simp] abbrev romMax : Nat := 3584

/-- FREE VALUE (43_alu.md R143, decision D15; log 3): the `n`-th random byte `rand_in`, under no law. -/
opaque randByte : Nat → Byte

/-- FREE VALUE (46_keys_timers.md R173, decision D8; log 4): the key the `n`-th key choice prefers, under no law. -/
opaque keyChoice : Nat → BitVec 4

end Sys2Proof.Config
end

