-- ==== Sys2Proof/Syntax.lean ====
section
/-! DEFINITION. The 34 instructions of the opcode map (30_encoding.md R78), one constructor per row, in the map's order. -/

namespace Sys2Proof

/-- A decoded instruction: one tag per row with the fields its word carries (30_encoding.md R77).
`shr` and `shl` keep the Y field, which they ignore (R75), so that a word and its instruction determine each other. -/
inductive Instr where
  /-- 00E0, CLS -/
  | cls
  /-- 00EE, RET -/
  | ret
  /-- 1NNN, JP NNN -/
  | jp (nnn : Addr)
  /-- 2NNN, CALL NNN -/
  | call (nnn : Addr)
  /-- 3XNN, SE VX, NN -/
  | seImm (x : RegIdx) (nn : Byte)
  /-- 4XNN, SNE VX, NN -/
  | sneImm (x : RegIdx) (nn : Byte)
  /-- 5XY0, SE VX, VY -/
  | seReg (x y : RegIdx)
  /-- 6XNN, LD VX, NN -/
  | ldImm (x : RegIdx) (nn : Byte)
  /-- 7XNN, ADD VX, NN -/
  | addImm (x : RegIdx) (nn : Byte)
  /-- 8XY0, LD VX, VY -/
  | ldReg (x y : RegIdx)
  /-- 8XY1, OR VX, VY -/
  | orReg (x y : RegIdx)
  /-- 8XY2, AND VX, VY -/
  | andReg (x y : RegIdx)
  /-- 8XY3, XOR VX, VY -/
  | xorReg (x y : RegIdx)
  /-- 8XY4, ADD VX, VY -/
  | addReg (x y : RegIdx)
  /-- 8XY5, SUB VX, VY -/
  | subReg (x y : RegIdx)
  /-- 8XY6, SHR VX (Y ignored) -/
  | shr (x y : RegIdx)
  /-- 8XY7, SUBN VX, VY -/
  | subn (x y : RegIdx)
  /-- 8XYE, SHL VX (Y ignored) -/
  | shl (x y : RegIdx)
  /-- 9XY0, SNE VX, VY -/
  | sneReg (x y : RegIdx)
  /-- ANNN, LD I, NNN -/
  | ldI (nnn : Addr)
  /-- BNNN, JP V0, NNN -/
  | jpV0 (nnn : Addr)
  /-- CXNN, RND VX, NN -/
  | rnd (x : RegIdx) (nn : Byte)
  /-- DXYN, DRW VX, VY, N -/
  | drw (x y : RegIdx) (n : Nibble)
  /-- EX9E, SKP VX -/
  | skp (x : RegIdx)
  /-- EXA1, SKNP VX -/
  | sknp (x : RegIdx)
  /-- FX07, LD VX, DT -/
  | ldVxDt (x : RegIdx)
  /-- FX0A, LD VX, K -/
  | ldVxK (x : RegIdx)
  /-- FX15, LD DT, VX -/
  | ldDtVx (x : RegIdx)
  /-- FX18, LD ST, VX -/
  | ldStVx (x : RegIdx)
  /-- FX1E, ADD I, VX -/
  | addI (x : RegIdx)
  /-- FX29, LD F, VX -/
  | ldF (x : RegIdx)
  /-- FX33, LD B, VX -/
  | ldB (x : RegIdx)
  /-- FX55, LD [I], VX -/
  | storeRegs (x : RegIdx)
  /-- FX65, LD VX, [I] -/
  | loadRegs (x : RegIdx)
  deriving DecidableEq, Repr

end Sys2Proof
end

