-- ==== Sys2Proof/WellFormed.lean ====
section
/-! DEFINITION. Which instructions and which ROMs are well formed. -/

namespace Sys2Proof

/-- Every term of `Instr` is well formed: each operand's type has exactly its field's width, every X and Y names a
register, no immediate value is reserved (30_encoding.md R72, R80). So no check of this predicate can refuse a term. -/
def Instr.wellFormed (i : Instr) : Bool :=
  match i with
  | .cls | .ret => true
  | .jp _ | .call _ | .ldI _ | .jpV0 _ => true
  | .seImm _ _ | .sneImm _ _ | .ldImm _ _ | .addImm _ _ | .rnd _ _ => true
  | .seReg _ _ | .sneReg _ _ | .ldReg _ _ | .orReg _ _ | .andReg _ _ | .xorReg _ _ => true
  | .addReg _ _ | .subReg _ _ | .shr _ _ | .subn _ _ | .shl _ _ => true
  | .drw _ _ _ => true
  | .skp _ | .sknp _ | .ldVxDt _ | .ldVxK _ | .ldDtVx _ | .ldStVx _ => true
  | .addI _ | .ldF _ | .ldB _ | .storeRegs _ | .loadRegs _ => true

/-- The capacity check on a ROM: at most 3584 bytes (70_reset_and_hazards.md R211). -/
def romFits (rom : List Byte) : Bool := decide (rom.length ≤ Config.romMax)

end Sys2Proof
end

