-- ==== Sys2Proof/Decode.lean ====
section
/-! DEFINITION. The Opcode Decoder (30_encoding.md R70 to R81), the encoder, and the opcode map as data (R78). -/

namespace Sys2Proof

/-- Why bytes are no instruction. -/
inductive DecodeError where
  /-- The word matches no row of the opcode map (30_encoding.md R79); the cycle raises UnrecognizedOpcode. -/
  | unrecognized (w : Word)
  /-- Fewer than the two bytes of an instruction were given to `decodeBytes`. -/
  | truncated
  deriving DecidableEq, Repr

/-- The six fields of a word (30_encoding.md R71). -/
structure Fields where
  op  : Nibble
  x   : RegIdx
  y   : RegIdx
  n   : Nibble
  nn  : Byte
  nnn : Addr
  deriving DecidableEq, Repr

/-- The 16-to-6-field demultiplexer of 30_encoding.md R71; all six fields are produced for every word. -/
def fields (w : Word) : Fields where
  op  := w.extractLsb' 12 4
  x   := w.extractLsb' 8 4
  y   := w.extractLsb' 4 4
  n   := w.extractLsb' 0 4
  nn  := w.extractLsb' 0 8
  nnn := w.extractLsb' 0 12

/-- Big-endian: the first byte is the high one (20_memory.md R55). -/
def wordOfBytes (hi lo : Byte) : Word := hi ++ lo

/-- The byte at the lower address. -/
def highByte (w : Word) : Byte := w.extractLsb' 8 8

/-- The byte at the higher address. -/
def lowByte (w : Word) : Byte := w.extractLsb' 0 8

/-- 30_encoding.md R74: first on the top nibble, then on the sub-selector; every fixed nibble is compared (90_conflicts.md C3). -/
def decode (w : Word) : Except DecodeError Instr :=
  let f := fields w
  match f.op.toNat with
  | 0x0 =>
    if w = 0x00E0#16 then .ok .cls
    else if w = 0x00EE#16 then .ok .ret
    else .error (.unrecognized w)
  | 0x1 => .ok (.jp f.nnn)
  | 0x2 => .ok (.call f.nnn)
  | 0x3 => .ok (.seImm f.x f.nn)
  | 0x4 => .ok (.sneImm f.x f.nn)
  | 0x5 => if f.n = 0x0#4 then .ok (.seReg f.x f.y) else .error (.unrecognized w)
  | 0x6 => .ok (.ldImm f.x f.nn)
  | 0x7 => .ok (.addImm f.x f.nn)
  | 0x8 =>
    match f.n.toNat with
    | 0x0 => .ok (.ldReg f.x f.y)
    | 0x1 => .ok (.orReg f.x f.y)
    | 0x2 => .ok (.andReg f.x f.y)
    | 0x3 => .ok (.xorReg f.x f.y)
    | 0x4 => .ok (.addReg f.x f.y)
    | 0x5 => .ok (.subReg f.x f.y)
    | 0x6 => .ok (.shr f.x f.y)
    | 0x7 => .ok (.subn f.x f.y)
    | 0xE => .ok (.shl f.x f.y)
    | _ => .error (.unrecognized w)
  | 0x9 => if f.n = 0x0#4 then .ok (.sneReg f.x f.y) else .error (.unrecognized w)
  | 0xA => .ok (.ldI f.nnn)
  | 0xB => .ok (.jpV0 f.nnn)
  | 0xC => .ok (.rnd f.x f.nn)
  | 0xD => .ok (.drw f.x f.y f.n)
  | 0xE =>
    match f.nn.toNat with
    | 0x9E => .ok (.skp f.x)
    | 0xA1 => .ok (.sknp f.x)
    | _ => .error (.unrecognized w)
  | 0xF =>
    match f.nn.toNat with
    | 0x07 => .ok (.ldVxDt f.x)
    | 0x0A => .ok (.ldVxK f.x)
    | 0x15 => .ok (.ldDtVx f.x)
    | 0x18 => .ok (.ldStVx f.x)
    | 0x1E => .ok (.addI f.x)
    | 0x29 => .ok (.ldF f.x)
    | 0x33 => .ok (.ldB f.x)
    | 0x55 => .ok (.storeRegs f.x)
    | 0x65 => .ok (.loadRegs f.x)
    | _ => .error (.unrecognized w)
  | _ => .error (.unrecognized w)

/-- The decoder on bytes as memory holds them: an instruction and the bytes after it. -/
def decodeBytes (bs : List Byte) : Except DecodeError (Instr × List Byte) :=
  match bs with
  | hi :: lo :: rest => (decode (wordOfBytes hi lo)).map fun i => (i, rest)
  | _ => .error .truncated

/-- The word of an instruction, written from the patterns of 30_encoding.md R73 and R78. -/
def encode (i : Instr) : Word :=
  match i with
  | .cls => 0x00E0#16
  | .ret => 0x00EE#16
  | .jp nnn => 0x1#4 ++ nnn
  | .call nnn => 0x2#4 ++ nnn
  | .seImm x nn => 0x3#4 ++ x ++ nn
  | .sneImm x nn => 0x4#4 ++ x ++ nn
  | .seReg x y => 0x5#4 ++ x ++ y ++ 0x0#4
  | .ldImm x nn => 0x6#4 ++ x ++ nn
  | .addImm x nn => 0x7#4 ++ x ++ nn
  | .ldReg x y => 0x8#4 ++ x ++ y ++ 0x0#4
  | .orReg x y => 0x8#4 ++ x ++ y ++ 0x1#4
  | .andReg x y => 0x8#4 ++ x ++ y ++ 0x2#4
  | .xorReg x y => 0x8#4 ++ x ++ y ++ 0x3#4
  | .addReg x y => 0x8#4 ++ x ++ y ++ 0x4#4
  | .subReg x y => 0x8#4 ++ x ++ y ++ 0x5#4
  | .shr x y => 0x8#4 ++ x ++ y ++ 0x6#4
  | .subn x y => 0x8#4 ++ x ++ y ++ 0x7#4
  | .shl x y => 0x8#4 ++ x ++ y ++ 0xE#4
  | .sneReg x y => 0x9#4 ++ x ++ y ++ 0x0#4
  | .ldI nnn => 0xA#4 ++ nnn
  | .jpV0 nnn => 0xB#4 ++ nnn
  | .rnd x nn => 0xC#4 ++ x ++ nn
  | .drw x y n => 0xD#4 ++ x ++ y ++ n
  | .skp x => 0xE#4 ++ x ++ 0x9E#8
  | .sknp x => 0xE#4 ++ x ++ 0xA1#8
  | .ldVxDt x => 0xF#4 ++ x ++ 0x07#8
  | .ldVxK x => 0xF#4 ++ x ++ 0x0A#8
  | .ldDtVx x => 0xF#4 ++ x ++ 0x15#8
  | .ldStVx x => 0xF#4 ++ x ++ 0x18#8
  | .addI x => 0xF#4 ++ x ++ 0x1E#8
  | .ldF x => 0xF#4 ++ x ++ 0x29#8
  | .ldB x => 0xF#4 ++ x ++ 0x33#8
  | .storeRegs x => 0xF#4 ++ x ++ 0x55#8
  | .loadRegs x => 0xF#4 ++ x ++ 0x65#8

/-- A row of the opcode map: the words `w` with `w &&& mask = pattern` (30_encoding.md R74). -/
structure OpcodeRow where
  pattern : Word
  mask : Word
  deriving DecidableEq, Repr

/-- The 34 rows of 30_encoding.md R78 in its order: rows 1 to 19. -/
def opcodeRowsLow : List OpcodeRow :=
  [⟨0x00E0, 0xFFFF⟩, ⟨0x00EE, 0xFFFF⟩, ⟨0x1000, 0xF000⟩, ⟨0x2000, 0xF000⟩, ⟨0x3000, 0xF000⟩,
   ⟨0x4000, 0xF000⟩, ⟨0x5000, 0xF00F⟩, ⟨0x6000, 0xF000⟩, ⟨0x7000, 0xF000⟩, ⟨0x8000, 0xF00F⟩,
   ⟨0x8001, 0xF00F⟩, ⟨0x8002, 0xF00F⟩, ⟨0x8003, 0xF00F⟩, ⟨0x8004, 0xF00F⟩, ⟨0x8005, 0xF00F⟩,
   ⟨0x8006, 0xF00F⟩, ⟨0x8007, 0xF00F⟩, ⟨0x800E, 0xF00F⟩, ⟨0x9000, 0xF00F⟩]

/-- Rows 20 to 34. -/
def opcodeRowsHigh : List OpcodeRow :=
  [⟨0xA000, 0xF000⟩, ⟨0xB000, 0xF000⟩, ⟨0xC000, 0xF000⟩, ⟨0xD000, 0xF000⟩, ⟨0xE09E, 0xF0FF⟩,
   ⟨0xE0A1, 0xF0FF⟩, ⟨0xF007, 0xF0FF⟩, ⟨0xF00A, 0xF0FF⟩, ⟨0xF015, 0xF0FF⟩, ⟨0xF018, 0xF0FF⟩,
   ⟨0xF01E, 0xF0FF⟩, ⟨0xF029, 0xF0FF⟩, ⟨0xF033, 0xF0FF⟩, ⟨0xF055, 0xF0FF⟩, ⟨0xF065, 0xF0FF⟩]

/-- The opcode map of 30_encoding.md R78 as data; `decode` is written apart from it, and a statement says they agree. -/
def opcodeRows : List OpcodeRow := opcodeRowsLow ++ opcodeRowsHigh

/-- A row selects a word (30_encoding.md R74). -/
def OpcodeRow.selects (r : OpcodeRow) (w : Word) : Bool := decide (w &&& r.mask = r.pattern)

/-- The row of the opcode map that an instruction stands in. -/
def opcodeRowOf (i : Instr) : OpcodeRow :=
  match i with
  | .cls => ⟨0x00E0, 0xFFFF⟩
  | .ret => ⟨0x00EE, 0xFFFF⟩
  | .jp _ => ⟨0x1000, 0xF000⟩
  | .call _ => ⟨0x2000, 0xF000⟩
  | .seImm _ _ => ⟨0x3000, 0xF000⟩
  | .sneImm _ _ => ⟨0x4000, 0xF000⟩
  | .seReg _ _ => ⟨0x5000, 0xF00F⟩
  | .ldImm _ _ => ⟨0x6000, 0xF000⟩
  | .addImm _ _ => ⟨0x7000, 0xF000⟩
  | .ldReg _ _ => ⟨0x8000, 0xF00F⟩
  | .orReg _ _ => ⟨0x8001, 0xF00F⟩
  | .andReg _ _ => ⟨0x8002, 0xF00F⟩
  | .xorReg _ _ => ⟨0x8003, 0xF00F⟩
  | .addReg _ _ => ⟨0x8004, 0xF00F⟩
  | .subReg _ _ => ⟨0x8005, 0xF00F⟩
  | .shr _ _ => ⟨0x8006, 0xF00F⟩
  | .subn _ _ => ⟨0x8007, 0xF00F⟩
  | .shl _ _ => ⟨0x800E, 0xF00F⟩
  | .sneReg _ _ => ⟨0x9000, 0xF00F⟩
  | .ldI _ => ⟨0xA000, 0xF000⟩
  | .jpV0 _ => ⟨0xB000, 0xF000⟩
  | .rnd _ _ => ⟨0xC000, 0xF000⟩
  | .drw _ _ _ => ⟨0xD000, 0xF000⟩
  | .skp _ => ⟨0xE09E, 0xF0FF⟩
  | .sknp _ => ⟨0xE0A1, 0xF0FF⟩
  | .ldVxDt _ => ⟨0xF007, 0xF0FF⟩
  | .ldVxK _ => ⟨0xF00A, 0xF0FF⟩
  | .ldDtVx _ => ⟨0xF015, 0xF0FF⟩
  | .ldStVx _ => ⟨0xF018, 0xF0FF⟩
  | .addI _ => ⟨0xF01E, 0xF0FF⟩
  | .ldF _ => ⟨0xF029, 0xF0FF⟩
  | .ldB _ => ⟨0xF033, 0xF0FF⟩
  | .storeRegs _ => ⟨0xF055, 0xF0FF⟩
  | .loadRegs _ => ⟨0xF065, 0xF0FF⟩

/-- The word of an opcode-table row whose bits are `w`, bits above `nbits` zero: an instruction is one 16-bit word. -/
def tableWord (nbits w : Nat) : Word := BitVec.ofNat 16 (w % 2 ^ nbits)

/-- What `decodeBytes` reads from the two bytes of `tableWord nbits w`, high byte first. -/
def decodeTableWord (nbits w : Nat) : Option Instr :=
  match decodeBytes [highByte (tableWord nbits w), lowByte (tableWord nbits w)] with
  | .ok (i, _) => some i
  | .error _ => none

end Sys2Proof
end

