-- ==== Sys2Proof/Machine/State.lean ====
section
/-! DEFINITION. The state of the CORE (10_state.md R20), its reasons to stop, and the state right after reset (R43). -/

namespace Sys2Proof.Machine

/-- The Cycle Driver's mode (10_state.md R35). -/
inductive Mode where
  /-- The next cycle fetches at PC. -/
  | running
  /-- An FX0A with field X = x waits for a key; the next cycle re-checks the keys and does not fetch. -/
  | blockedOnKey (x : RegIdx)
  /-- A fatal condition was raised; no later cycle changes anything. -/
  | halted
  deriving DecidableEq, Repr

/-- The kinds of fatal condition, in the order of their codes 1 to 7 (60_exceptions.md R181). -/
inductive FatalKind where
  | romLoadFailure
  | unrecognizedOpcode
  | stackOverflow
  | stackUnderflow
  | romTooLarge
  | addressOutOfRange
  | keyIndexOutOfRange
  deriving DecidableEq, Repr

/-- The fault record (10_state.md R36), with what 60_exceptions.md R181 records for each kind. -/
structure FaultRecord where
  kind : FatalKind
  /-- The instruction word of the faulting cycle; absent for a fault at fetch or at load. -/
  word : Option Word
  /-- PC of the faulting cycle; absent for a fault at load. -/
  pc : Option Word
  /-- The length of the rejected ROM (RomTooLarge only). -/
  romLength : Option Nat
  deriving DecidableEq, Repr

/-- What a cycle sends out beside the state (40_cycle.md R100). -/
inductive Event where
  /-- A timer tick took ST from 1 to 0 (60_exceptions.md R198). -/
  | toneEnd
  /-- Mode became Halted (60_exceptions.md R186 (4)). -/
  | fatal (r : FaultRecord)
  deriving DecidableEq, Repr

/-- The whole state of the CORE (10_state.md R20), then three fields of the model's own. -/
structure State where
  /-- V[0] to V[15] (R21); V[15] is VF (R22). -/
  v : Vector Byte 16
  /-- The index register I (R23). -/
  i : Word
  /-- The program counter PC (R24). -/
  pc : Word
  /-- The return stack (R26). -/
  stack : Vector Word 16
  /-- SP, the number of stack entries in use, 0 to 16 (R27). -/
  sp : Fin 17
  /-- The delay timer DT (R30). -/
  dt : Byte
  /-- The sound timer ST (R31). -/
  st : Byte
  /-- The keys, written by the host only; their value when a cycle starts is that cycle's sample (R32; log 5). -/
  keys : Keys
  /-- The framebuffer (R33). -/
  fb : Frame
  /-- The redraw flag (R34). -/
  redrawPending : Bool
  /-- The driver's mode (R35). -/
  mode : Mode
  /-- The fault record, empty until a fatal condition is raised (R36). -/
  fault : Option FaultRecord
  /-- Memory (20_memory.md R50): the bytes that differ from what an unlisted address reads as, addresses strictly rising. -/
  mem : List Host.Cell
  /-- MODEL'S OWN (log 2): the parameter FONT (R38), constant; what addresses 0 to 79 read as where `mem` lists nothing. -/
  font : Vector Byte 80
  /-- MODEL'S OWN (log 3): how many free values have been taken. -/
  draws : Nat
  /-- MODEL'S OWN (log 7): the event of the cycle just run. -/
  event : Option Event
  deriving DecidableEq, Repr

/-- Reasons for `Outcome.fault`: NONE. Every fatal condition of 60_exceptions.md R181 has an entry the spec describes (R186),
so it is a next state in mode Halted, and nobody raises a fault (log 6; safe, since no run is cut short by it). -/
inductive Fault where
  deriving DecidableEq, Repr

/-- Reasons for `Outcome.refused`. -/
inductive Refusal where
  /-- Raised by `exec`'s arm of an instruction that has no meaning yet, and by nothing else; safe. No arm raises it now. -/
  | notModelled (mnemonic : String)
  deriving DecidableEq, Repr

/-- The machine right after `reset_load` of a ROM of 0 bytes (10_state.md R43; 70_reset_and_hazards.md R211: not an error).
PC = 512 is the spec's decision D1 (log 1), the font its default (log 2). -/
def State.reset : State where
  v := Vector.replicate 16 0#8
  i := 0#16
  pc := 512#16
  stack := Vector.replicate 16 0#16
  sp := 0
  dt := 0#8
  st := 0#8
  keys := 0#16
  fb := Vector.replicate 32 0#64
  redrawPending := false
  mode := .running
  fault := none
  mem := []
  font := fontDefault
  draws := 0
  event := none

end Sys2Proof.Machine
end

