-- ==== Sys2Proof/Machine/Ops.lean ====
section
/-! DEFINITION. The named operations over memory, registers, stack, PC and timers, and taking a fatal condition. -/

namespace Sys2Proof.Machine

/-- The outcome of an execute stage or of a cycle. -/
abbrev Result := Host.Outcome State Fault Refusal

/-! Memory (20_memory.md) -/

/-- What an unlisted address reads as: the reset contents of 10_state.md R43 (the font, then zero). -/
def Memory.unlisted (font : Vector Byte 80) (a : Nat) : Byte :=
  if h : a < Config.fontSize then font[a] else 0#8

/-- The listed byte at an address. -/
def Memory.lookup (a : Nat) : List Host.Cell → Option Byte
  | [] => none
  | c :: m => if c.1 = a then some c.2 else Memory.lookup a m

/-- The byte at an address: the last one written there, or the reset value (20_memory.md R58). -/
def Memory.read (font : Vector Byte 80) (m : List Host.Cell) (a : Nat) : Byte :=
  (Memory.lookup a m).getD (Memory.unlisted font a)

/-- List the byte `b` at `a`, in address order, in place of what was listed there. -/
def Memory.insert (a : Nat) (b : Byte) : List Host.Cell → List Host.Cell
  | [] => [(a, b)]
  | c :: m =>
    if a < c.1 then (a, b) :: c :: m
    else if a = c.1 then (a, b) :: m
    else c :: Memory.insert a b m

/-- List nothing at `a`. -/
def Memory.erase (a : Nat) (m : List Host.Cell) : List Host.Cell := m.filter fun c => decide (c.1 ≠ a)

/-- Write one byte and keep the canonical form: a byte equal to what the unlisted address reads as is not listed. -/
def Memory.write (font : Vector Byte 80) (m : List Host.Cell) (a : Nat) (b : Byte) : List Host.Cell :=
  if b = Memory.unlisted font a then Memory.erase a m else Memory.insert a b m

/-- The canonical form: addresses strictly rising, no entry equal to what its address reads as unlisted. -/
abbrev Memory.wf (font : Vector Byte 80) (m : List Host.Cell) : Prop :=
  m.Pairwise (fun c d => c.1 < d.1) ∧ ∀ c ∈ m, c.2 ≠ Memory.unlisted font c.1

/-- `MemRead(a, 1)` of 00_scope.md R11 at an address that the caller has checked. -/
def State.readByte (s : State) (a : Nat) : Byte := Memory.read s.font s.mem a

/-- `MemWrite(a, 1, b)` of 00_scope.md R11 at an address that the caller has checked. -/
def State.writeByte (s : State) (a : Nat) (b : Byte) : State :=
  { s with mem := Memory.write s.font s.mem a b }

/-- The `n` bytes from `a` up, ascending (20_memory.md R57). -/
def State.readBytes (s : State) (a n : Nat) : List Byte := (List.range n).map fun k => s.readByte (a + k)

/-- Write bytes from `a` up, ascending (20_memory.md R57). -/
def State.writeBytes : State → Nat → List Byte → State
  | s, _, [] => s
  | s, a, b :: bs => State.writeBytes (s.writeByte a b) (a + 1) bs

/-! Registers (10_state.md R21 to R24, R30, R31) -/

/-- `V[x]`. -/
def State.getV (s : State) (x : RegIdx) : Byte := s.v[x.toNat]'x.isLt

/-- `V[x] <- b`; no register is hard-wired (10_state.md R21). -/
def State.setV (s : State) (x : RegIdx) (b : Byte) : State := { s with v := s.v.set x.toNat b x.isLt }

/-- `V[0] <- bs[0]`, `V[1] <- bs[1]` and so on, for as many bytes as are given (44_index_memory.md R155). -/
def State.setVs (s : State) (bs : List Byte) : State :=
  { s with v := Vector.ofFn fun k : Fin 16 => bs.getD k.val s.v[k] }

/-- `V[0]` to `V[x]`, both inclusive (44_index_memory.md R154). -/
def State.getVs (s : State) (x : RegIdx) : List Byte := s.v.toList.take (x.toNat + 1)

/-- `I <- a`. -/
def State.setI (s : State) (a : Word) : State := { s with i := a }

/-- `PC <- a`, unchecked: `writePc` is the checked write. -/
def State.setPc (s : State) (a : Word) : State := { s with pc := a }

/-- `DT <- b`. -/
def State.setDt (s : State) (b : Byte) : State := { s with dt := b }

/-- `ST <- b`. -/
def State.setSt (s : State) (b : Byte) : State := { s with st := b }

/-- The driver's mode. -/
def State.setMode (s : State) (m : Mode) : State := { s with mode := m }

/-- The framebuffer after an instruction that writes it, with the redraw flag set (10_state.md R34). -/
def State.setFb (s : State) (f : Frame) : State := { s with fb := f, redrawPending := true }

/-- One free value is consumed (log 3). -/
def State.tookDraw (s : State) : State := { s with draws := s.draws + 1 }

/-! Taking a fatal condition (60_exceptions.md R186) -/

/-- What is recorded for a fatal condition of a cycle: kind, word (absent at fetch), PC (60_exceptions.md R181). -/
def cycleFault (kind : FatalKind) (word : Option Word) (s : State) : FaultRecord :=
  { kind := kind, word := word, pc := some s.pc, romLength := none }

/-- Taking a fatal condition in state `s`, the state at the cycle's start: only `mode` and `fault` change, and the `fatal`
output is raised once (60_exceptions.md R186). There is no return from it (R187): no handler, no vector, no saved registers;
only `reset_load` (Machine/Reset.lean) leaves mode Halted. -/
def takeFatal (kind : FatalKind) (word : Option Word) (s : State) : State :=
  { s with mode := .halted, fault := some (cycleFault kind word s), event := some (.fatal (cycleFault kind word s)) }

/-- `raise kind(w, PC)` in the execute stage of instruction `i`, whose word is `encode i` (log 8). -/
def raise (kind : FatalKind) (i : Instr) (s : State) : Result := .next (takeFatal kind (some (encode i)) s)

/-! Writing PC (40_cycle.md R97, R98) -/

/-- `PC <- t`, `t` unbounded: above 4095 the cycle is fatal and nothing else is written either. `s` is the state at the
cycle's start and `eff` that state with the instruction's other writes (40_cycle.md R99: checks first, then all writes). -/
def writePc (i : Instr) (s : State) (t : Nat) (eff : State) : Result :=
  if t ≤ Config.lastAddr then .next (eff.setPc (BitVec.ofNat 16 t)) else raise .addressOutOfRange i s

/-- `advance`: PC <- PC + 2. -/
def advance (i : Instr) (s eff : State) : Result := writePc i s (s.pc.toNat + 2) eff

/-- `skip_if(c)`: PC <- PC + 4 when `c` holds, else PC + 2; the skipped bytes are not looked at. -/
def skipIf (i : Instr) (s : State) (c : Bool) : Result := writePc i s (s.pc.toNat + if c then 4 else 2) s

/-! The return stack (10_state.md R28, R29) -/

/-- The entry `stack[k]`; 0 outside the array, where no rule reads. -/
def State.stackAt (s : State) (k : Nat) : Word := if h : k < 16 then s.stack[k] else 0#16

/-- The address a 00EE would go to: the top entry, `stack[SP - 1]` (41_flow.md R110). -/
def State.returnAddress (s : State) : Nat := (s.stackAt (s.sp.val - 1)).toNat

/-- `stack[SP] <- v; SP <- SP + 1`, for `SP < 16` (10_state.md R28; the caller has checked). -/
def State.pushed (s : State) (v : Word) (h : s.sp.val < 16) : State :=
  { s with stack := s.stack.set s.sp.val v h, sp := ⟨s.sp.val + 1, Nat.succ_lt_succ h⟩ }

/-- `SP <- SP - 1`; the entry is kept (10_state.md R26, R29; at SP = 0 the caller has raised StackUnderflow). -/
def State.popped (s : State) : State :=
  { s with sp := ⟨s.sp.val - 1, Nat.lt_of_le_of_lt (Nat.sub_le _ _) s.sp.isLt⟩ }

/-! The key wait (46_keys_timers.md R173) -/

/-- The lowest-numbered pressed key of a nonempty sample. -/
def firstKey (ks : Keys) : BitVec 4 := BitVec.ofNat 4 (((List.range 16).find? fun k => ks.getLsbD k).getD 0)

/-- `key_choice(P)`: the preferred key where it is pressed, else the lowest pressed one. As the preference is free,
every member of P is a possible answer and nothing else is (log 4). -/
def chooseKey (ks : Keys) (preferred : BitVec 4) : BitVec 4 :=
  if ks.getLsbD preferred.toNat then preferred else firstKey ks

/-- `KeyWait(x, ks)`, run by the execute stage of FX0A and by every blocked cycle (46_keys_timers.md R173). -/
def keyWait (x : RegIdx) (s : State) : Result :=
  if s.keys = 0#16 then .next (s.setMode (.blockedOnKey x))
  else
    advance (.ldVxK x) s
      (((s.setV x ((chooseKey s.keys (Config.keyChoice s.draws)).setWidth 8)).setMode .running).tookDraw)

/-! The stages of the cycle (40_cycle.md R92) -/

/-- The cycle begins: the last cycle's event is over (log 7). -/
def State.beginCycle (s : State) : State := { s with event := none }

/-- `FetchWord(PC)`, big-endian; none where an address is above 4095 (20_memory.md R53, R55; 40_cycle.md R95). -/
def fetch (s : State) : Option Word :=
  if s.pc.toNat + 1 ≤ Config.lastAddr then
    some (wordOfBytes (s.readByte s.pc.toNat) (s.readByte (s.pc.toNat + 1)))
  else none

/-- One timer's tick: down by one while above 0 (60_exceptions.md R196). -/
def tickByte (b : Byte) : Byte := if b = 0#8 then 0#8 else b - 1#8

/-- `TimerTick()`; `tone_end` when it takes ST from 1 to 0 (60_exceptions.md R196, R198). -/
def timerTick (s : State) : State :=
  { s with dt := tickByte s.dt, st := tickByte s.st, event := if s.st = 1#8 then some .toneEnd else s.event }

/-- The end of a cycle after its execute stage: the timers tick, but not in a cycle that raised a fatal condition
(60_exceptions.md R186, R196). -/
def endCycle (r : Result) : Result :=
  match r with
  | .next t => .next (if t.mode = .halted then t else timerTick t)
  | .fault f => .fault f
  | .refused q => .refused q

end Sys2Proof.Machine
end

