-- ==== Sys2Proof/Machine/Operands.lean ====
section
/-! DEFINITION. The operand forms: register fields, immediates, the address I + k, the key index, sprites. -/

namespace Sys2Proof.Machine

/-- The effective address `I + k`, on unbounded integers (44_index_memory.md R156). -/
def State.addrI (s : State) (k : Nat) : Nat := s.i.toNat + k

/-- NNN as an address, zero-extended (30_encoding.md R72). -/
def zextAddr (nnn : Addr) : Word := nnn.setWidth 16

/-- A byte zero-extended to 16 bits (44_index_memory.md R151). -/
def zextByte (b : Byte) : Word := b.setWidth 16

/-- `V[x]` as a key index; none above 15, never masked (46_keys_timers.md R170; log 11). -/
def State.keyIndex (s : State) (x : RegIdx) : Option Nat :=
  if (s.getV x).toNat ≤ 15 then some (s.getV x).toNat else none

/-- `keys[k]` of this cycle's sample (10_state.md R32). -/
def State.keyPressed (s : State) (k : Nat) : Bool := s.keys.getLsbD k

/-- The operand check of a memory instruction: its highest address is compared with 4095 before anything is written
(20_memory.md R53, R54). -/
def checkAddr (i : Instr) (s : State) (last : Nat) (k : Result) : Result :=
  if last ≤ Config.lastAddr then k else raise .addressOutOfRange i s

/-- The three decimal digits of a byte, hundreds first (44_index_memory.md R153). -/
def bcdDigits (b : Byte) : List Byte :=
  [BitVec.ofNat 8 (b.toNat / 100), BitVec.ofNat 8 (b.toNat / 10 % 10), BitVec.ofNat 8 (b.toNat % 10)]

/-- The framebuffer cell in column `x`, row `y` (10_state.md R33); false outside the grid, where no rule reads. -/
def Frame.cell (f : Frame) (x y : Nat) : Bool := if h : y < 32 then f[y].getLsbD x else false

/-- XOR of one cell with 1. -/
def Frame.toggle (f : Frame) (x y : Nat) : Frame :=
  if h : y < 32 then f.set y (f[y] ^^^ BitVec.twoPow 64 x) h else f

/-- Sprite row byte `b`, column `c`: bit 7 is column 0 (45_display.md R161; log 13). -/
def spriteBit (b : Byte) (c : Nat) : Bool := b.getLsbD (7 - c)

/-- One sprite pixel of 45_display.md R161: row `r`, column `c` of a sprite at (x0, y0); the pair is framebuffer and hit. -/
def drawPixel (x0 y0 r : Nat) (b : Byte) (acc : Frame × Bool) (c : Nat) : Frame × Bool :=
  if spriteBit b c then
    (Frame.toggle acc.1 ((x0 + c) % 64) ((y0 + r) % 32),
      acc.2 || Frame.cell acc.1 ((x0 + c) % 64) ((y0 + r) % 32))
  else acc

/-- One sprite row, columns 0 to 7, left to right. -/
def drawRow (x0 y0 r : Nat) (b : Byte) (acc : Frame × Bool) : Frame × Bool :=
  (List.range 8).foldl (drawPixel x0 y0 r b) acc

/-- The sprite rows `bs`, the first of them row `r`. -/
def drawRows (x0 y0 : Nat) : Nat → List Byte → Frame × Bool → Frame × Bool
  | _, [], acc => acc
  | r, b :: bs, acc => drawRows x0 y0 (r + 1) bs (drawRow x0 y0 r b acc)

end Sys2Proof.Machine
end

