-- ==== Sys2Proof/Machine/Alu.lean ====
section
/-! DEFINITION. Register load and the flag ALU: 6XNN, 7XNN, 8XY0 to 8XYE, CXNN (43_alu.md). -/

namespace Sys2Proof.Machine

/-- `V[x] <- r; advance`: the instructions of 43_alu.md without a flag. -/
def loadReg (i : Instr) (x : RegIdx) (r : Byte) (s : State) : Result := advance i s (s.setV x r)

/-- `V[x] <- r; VF <- flag; advance`: VF is written after V[x], so the flag wins when x = 0xF (43_alu.md R131; log 12). -/
def loadRegFlag (i : Instr) (x : RegIdx) (r : Byte) (flag : Bool) (s : State) : Result :=
  advance i s ((s.setV x r).setV vf (flagByte flag))

/-- 6XNN, LD VX, NN (43_alu.md R132). -/
def execLdImm (x : RegIdx) (nn : Byte) (s : State) : Result := loadReg (.ldImm x nn) x nn s

/-- 7XNN, ADD VX, NN, no flag (43_alu.md R133). -/
def execAddImm (x : RegIdx) (nn : Byte) (s : State) : Result := loadReg (.addImm x nn) x (s.getV x + nn) s

/-- 8XY0, LD VX, VY (43_alu.md R134). -/
def execLdReg (x y : RegIdx) (s : State) : Result := loadReg (.ldReg x y) x (s.getV y) s

/-- 8XY1, OR VX, VY (43_alu.md R135). -/
def execOrReg (x y : RegIdx) (s : State) : Result := loadReg (.orReg x y) x (s.getV x ||| s.getV y) s

/-- 8XY2, AND VX, VY (43_alu.md R136). -/
def execAndReg (x y : RegIdx) (s : State) : Result := loadReg (.andReg x y) x (s.getV x &&& s.getV y) s

/-- 8XY3, XOR VX, VY (43_alu.md R137). -/
def execXorReg (x y : RegIdx) (s : State) : Result := loadReg (.xorReg x y) x (s.getV x ^^^ s.getV y) s

/-- 8XY4, ADD VX, VY (43_alu.md R138). -/
def execAddReg (x y : RegIdx) (s : State) : Result :=
  loadRegFlag (.addReg x y) x (s.getV x + s.getV y) (carryOut (s.getV x) (s.getV y)) s

/-- 8XY5, SUB VX, VY (43_alu.md R139). -/
def execSubReg (x y : RegIdx) (s : State) : Result :=
  loadRegFlag (.subReg x y) x (s.getV x - s.getV y) (noBorrow (s.getV x) (s.getV y)) s

/-- 8XY6, SHR VX (43_alu.md R140); Y is ignored. -/
def execShr (x y : RegIdx) (s : State) : Result :=
  loadRegFlag (.shr x y) x (s.getV x >>> 1) (lsbOf (s.getV x)) s

/-- 8XY7, SUBN VX, VY (43_alu.md R141). -/
def execSubn (x y : RegIdx) (s : State) : Result :=
  loadRegFlag (.subn x y) x (s.getV y - s.getV x) (noBorrow (s.getV y) (s.getV x)) s

/-- 8XYE, SHL VX (43_alu.md R142); Y is ignored. -/
def execShl (x y : RegIdx) (s : State) : Result :=
  loadRegFlag (.shl x y) x (s.getV x <<< 1) (msbOf (s.getV x)) s

/-- CXNN, RND VX, NN (43_alu.md R143): one free byte per executed CXNN, none on a fault (log 3). -/
def execRnd (x : RegIdx) (nn : Byte) (s : State) : Result :=
  advance (.rnd x nn) s (s.setV x (Config.randByte s.draws &&& nn)).tookDraw

end Sys2Proof.Machine
end

