-- ==== Sys2Proof/Machine/Display.lean ====
section
/-! DEFINITION. Display: 00E0, DXYN (45_display.md). -/

namespace Sys2Proof.Machine

/-- 00E0, CLS (45_display.md R160): every cell to 0; the redraw flag is set even when nothing changed (log 13). -/
def execCls (s : State) : Result := advance .cls s (s.setFb (Vector.replicate 32 0#64))

/-- The sprite of a DXYN drawn on the framebuffer of `s`, all operands as they stand at the cycle's start
(45_display.md R161): the new framebuffer and whether some cell went from 1 to 0. -/
def drawSprite (x y : RegIdx) (n : Nibble) (s : State) : Frame × Bool :=
  drawRows (s.getV x).toNat (s.getV y).toNat 0 (s.readBytes (s.addrI 0) n.toNat) (s.fb, false)

/-- DXYN, DRW VX, VY, N (45_display.md R161). The highest address is I + N - 1; with N = 0 nothing is accessed and
the check cannot fail (20_memory.md R54). -/
def execDrw (x y : RegIdx) (n : Nibble) (s : State) : Result :=
  checkAddr (.drw x y n) s (if n.toNat = 0 then 0 else s.addrI (n.toNat - 1))
    (advance (.drw x y n) s
      ((s.setFb (drawSprite x y n s).1).setV vf (flagByte (drawSprite x y n s).2)))

end Sys2Proof.Machine
end

