-- ==== Sys2Proof/Machine/Flow.lean ====
section
/-! DEFINITION. Control transfer: 00EE, 1NNN, 2NNN, BNNN (41_flow.md). -/

namespace Sys2Proof.Machine

/-- 00EE, RET (41_flow.md R110): underflow first, then the check of the popped value; the entry is kept. -/
def execRet (s : State) : Result :=
  if s.sp.val = 0 then raise .stackUnderflow .ret s
  else writePc .ret s s.returnAddress s.popped

/-- 1NNN, JP NNN (41_flow.md R111). -/
def execJp (nnn : Addr) (s : State) : Result := writePc (.jp nnn) s (zextAddr nnn).toNat s

/-- 2NNN, CALL NNN (41_flow.md R112): PC + 2 is pushed (log 14). -/
def execCall (nnn : Addr) (s : State) : Result :=
  if h : s.sp.val < 16 then
    writePc (.call nnn) s (zextAddr nnn).toNat (s.pushed (s.pc + 2#16) h)
  else raise .stackOverflow (.call nnn) s

/-- BNNN, JP V0, NNN (41_flow.md R113): the sum is unbounded. -/
def execJpV0 (nnn : Addr) (s : State) : Result := writePc (.jpV0 nnn) s (nnn.toNat + (s.getV 0x0#4).toNat) s

end Sys2Proof.Machine
end

