-- ==== Sys2Proof/Machine/Index.lean ====
section
/-! DEFINITION. Index register and memory: ANNN, FX1E, FX29, FX33, FX55, FX65 (44_index_memory.md). -/

namespace Sys2Proof.Machine

/-- ANNN, LD I, NNN (44_index_memory.md R150). -/
def execLdI (nnn : Addr) (s : State) : Result := advance (.ldI nnn) s (s.setI (zextAddr nnn))

/-- FX1E, ADD I, VX (44_index_memory.md R151): modulo 65536, no flag, no fault (log 15). -/
def execAddI (x : RegIdx) (s : State) : Result := advance (.addI x) s (s.setI (s.i + zextByte (s.getV x)))

/-- FX29, LD F, VX (44_index_memory.md R152): the whole byte times 5, at most 1275. -/
def execLdF (x : RegIdx) (s : State) : Result :=
  advance (.ldF x) s (s.setI (BitVec.ofNat 16 ((s.getV x).toNat * 5)))

/-- FX33, LD B, VX (44_index_memory.md R153). -/
def execLdB (x : RegIdx) (s : State) : Result :=
  checkAddr (.ldB x) s (s.addrI 2) (advance (.ldB x) s (s.writeBytes (s.addrI 0) (bcdDigits (s.getV x))))

/-- FX55, LD [I], VX (44_index_memory.md R154): V[0] to V[x] inclusive; I unchanged. -/
def execStoreRegs (x : RegIdx) (s : State) : Result :=
  checkAddr (.storeRegs x) s (s.addrI x.toNat) (advance (.storeRegs x) s (s.writeBytes (s.addrI 0) (s.getVs x)))

/-- FX65, LD VX, [I] (44_index_memory.md R155): V[0] to V[x] inclusive; I unchanged. -/
def execLoadRegs (x : RegIdx) (s : State) : Result :=
  checkAddr (.loadRegs x) s (s.addrI x.toNat)
    (advance (.loadRegs x) s (s.setVs (s.readBytes (s.addrI 0) (x.toNat + 1))))

end Sys2Proof.Machine
end

