-- ==== Sys2Proof/Machine/Keys.lean ====
section
/-! DEFINITION. Keys and timers: EX9E, EXA1, FX0A, FX07, FX15, FX18 (46_keys_timers.md). -/

namespace Sys2Proof.Machine

/-- A key skip: an index above 15 is fatal, before the PC write (46_keys_timers.md R170, R171). -/
def keySkip (i : Instr) (x : RegIdx) (pressed : Bool) (s : State) : Result :=
  match s.keyIndex x with
  | none => raise .keyIndexOutOfRange i s
  | some k => skipIf i s (s.keyPressed k == pressed)

/-- EX9E, SKP VX (46_keys_timers.md R170). -/
def execSkp (x : RegIdx) (s : State) : Result := keySkip (.skp x) x true s

/-- EXA1, SKNP VX (46_keys_timers.md R171). -/
def execSknp (x : RegIdx) (s : State) : Result := keySkip (.sknp x) x false s

/-- FX0A, LD VX, K (46_keys_timers.md R172). -/
def execLdVxK (x : RegIdx) (s : State) : Result := keyWait x s

/-- FX07, LD VX, DT (46_keys_timers.md R174): DT before this cycle's tick. -/
def execLdVxDt (x : RegIdx) (s : State) : Result := advance (.ldVxDt x) s (s.setV x s.dt)

/-- FX15, LD DT, VX (46_keys_timers.md R175); the tick of the same cycle follows. -/
def execLdDtVx (x : RegIdx) (s : State) : Result := advance (.ldDtVx x) s (s.setDt (s.getV x))

/-- FX18, LD ST, VX (46_keys_timers.md R176); the tick of the same cycle follows. -/
def execLdStVx (x : RegIdx) (s : State) : Result := advance (.ldStVx x) s (s.setSt (s.getV x))

end Sys2Proof.Machine
end

