-- ==== Sys2Proof/Machine/Skip.lean ====
section
/-! DEFINITION. The register-comparison skips: 3XNN, 4XNN, 5XY0, 9XY0 (42_skip.md). -/

namespace Sys2Proof.Machine

/-- 3XNN, SE VX, NN (42_skip.md R120). -/
def execSeImm (x : RegIdx) (nn : Byte) (s : State) : Result := skipIf (.seImm x nn) s (decide (s.getV x = nn))

/-- 4XNN, SNE VX, NN (42_skip.md R121). -/
def execSneImm (x : RegIdx) (nn : Byte) (s : State) : Result := skipIf (.sneImm x nn) s (decide (s.getV x ≠ nn))

/-- 5XY0, SE VX, VY (42_skip.md R122). -/
def execSeReg (x y : RegIdx) (s : State) : Result := skipIf (.seReg x y) s (decide (s.getV x = s.getV y))

/-- 9XY0, SNE VX, VY (42_skip.md R123). -/
def execSneReg (x y : RegIdx) (s : State) : Result := skipIf (.sneReg x y) s (decide (s.getV x ≠ s.getV y))

end Sys2Proof.Machine
end

