-- ==== Sys2Proof/Machine/Step.lean ====
section
/-! DEFINITION. One cycle of the Cycle Driver (40_cycle.md R92), and placing an instruction where it fetches. -/

namespace Sys2Proof.Machine

/-- One `cycle_req` (40_cycle.md R92): nothing in mode Halted (R94), a re-check of the keys in mode BlockedOnKey (R93), else
fetch, decode, execute, timer tick. The key sample is `s.keys` as it stands now (10_state.md R32; log 5). -/
def step (s : State) : Host.Outcome State Fault Refusal :=
  match s.mode with
  | .halted => .next s.beginCycle
  | .blockedOnKey x => endCycle (keyWait x s.beginCycle)
  | .running =>
    match fetch s with
    | none => .next (takeFatal .addressOutOfRange none s.beginCycle)
    | some w =>
      match decode w with
      | .error _ => .next (takeFatal .unrecognizedOpcode (some w) s.beginCycle)
      | .ok i => endCycle (exec i s.beginCycle)

/-- Where `step` fetches: PC, or 512 when the two bytes at PC are not both in memory. -/
def State.fetchPc (s : State) : Word := if s.pc.toNat + 1 ≤ Config.lastAddr then s.pc else BitVec.ofNat 16 Config.romBase

/-- `s` with an instruction's two bytes stored big-endian at PC and the driver Running, so that the next step runs it
(log 20: it stands for a `reset_load` of a ROM that begins with the instruction). -/
def State.withFetchWord (s : State) (nbits w : Nat) : State :=
  (((s.setPc s.fetchPc).setMode .running).writeByte s.fetchPc.toNat (highByte (tableWord nbits w))).writeByte
    (s.fetchPc.toNat + 1) (lowByte (tableWord nbits w))

end Sys2Proof.Machine
end

