-- ==== Sys2Proof/Machine/Reset.lean ====
section
/-! DEFINITION. Reset and load (70_reset_and_hazards.md R210 to R214). -/

namespace Sys2Proof.Machine

/-- The ROM's bytes as memory cells from `a` up, in order; a zero byte is what the address reads as unlisted. -/
def romCells : Nat → List Byte → List Host.Cell
  | _, [] => []
  | a, b :: bs => if b = 0#8 then romCells (a + 1) bs else (a, b) :: romCells (a + 1) bs

/-- Every piece of state 0, fault empty, the font in place (70_reset_and_hazards.md R210), before PC and mode are set. FONT is
a parameter, and the free-value counter is the model's own: both outlive the reset (log 2, log 18). -/
def State.zeroed (s : State) : State :=
  { State.reset with pc := 0#16, font := s.font, draws := s.draws }

/-- A load that fails leaves mode Halted with the fault recorded, no ROM byte copied, everything else zero and the font
loaded; the `fatal` output is raised (70_reset_and_hazards.md R210 to R212; 60_exceptions.md R186, R188; log 17). -/
def State.loadFailed (s : State) (kind : FatalKind) (len : Option Nat) : State :=
  { s.zeroed with
    mode := .halted
    fault := some { kind := kind, word := none, pc := none, romLength := len }
    event := some (.fatal { kind := kind, word := none, pc := none, romLength := len }) }

/-- `reset_load(rom, len)` (70_reset_and_hazards.md R210, R211). -/
def State.resetLoad (s : State) (rom : List Byte) : State :=
  if romFits rom then
    { s.zeroed with mem := romCells Config.romBase rom, pc := BitVec.ofNat 16 Config.romBase, mode := .running }
  else s.loadFailed .romTooLarge (some rom.length)

/-- The loader could not supply the bytes (70_reset_and_hazards.md R212). -/
def State.resetLoadFailure (s : State) : State := s.loadFailed .romLoadFailure none

end Sys2Proof.Machine
end

