-- ==== Sys2Proof/Machine/HostMoves.lean ====
section
/-! DEFINITION. The host's moves between cycles and the outputs it reads (70_reset_and_hazards.md R218 to R223; 10_state.md R41, R42). -/

namespace Sys2Proof.Machine

/-- `keys_in`: the input collaborator sets the key states to any value (70_reset_and_hazards.md R220). -/
def State.setKeys (s : State) (ks : Keys) : State := { s with keys := ks }

/-- `keys_clear_all` (10_state.md R41). -/
def State.clearKeys (s : State) : State := s.setKeys 0#16

/-- `redraw_ack`: the redraw flag to 0 and nothing else (70_reset_and_hazards.md R221). -/
def State.redrawAck (s : State) : State := { s with redrawPending := false }

/-- Every move that the host may make and that can change something (70_reset_and_hazards.md R218); reading an output and
stopping for good (R222) change nothing. -/
inductive HostMove where
  /-- Run one cycle (R219). -/
  | cycleReq
  /-- Set the sixteen key states (R220). -/
  | keysIn (ks : Keys)
  /-- Clear the sixteen key states (R220). -/
  | keysClearAll
  /-- The renderer has been notified (R221). -/
  | redrawAck
  /-- Reset and load a ROM (R210, R211). -/
  | resetLoad (rom : List Byte)
  /-- Reset with a ROM that could not be read (R212). -/
  | resetLoadFailure
  deriving DecidableEq, Repr

/-- One move of the host. -/
def hostMove (m : HostMove) (s : State) : Result :=
  match m with
  | .cycleReq => step s
  | .keysIn ks => .next (s.setKeys ks)
  | .keysClearAll => .next s.clearKeys
  | .redrawAck => .next s.redrawAck
  | .resetLoad rom => .next (s.resetLoad rom)
  | .resetLoadFailure => .next s.resetLoadFailure

/-- A cycle with the key sample given from outside, as 40_cycle.md R100 writes it. -/
def cycle (ks : Keys) (s : State) : Result := step (s.setKeys ks)

/-- `fb_out`: the 2048 cells, cell (x, y) at index 64 * y + x (10_state.md R42; log 19). -/
def State.fbOut (s : State) : List Bool :=
  s.fb.toList.flatMap fun row => (List.range 64).map fun x => row.getLsbD x

/-- `tone_active`: ST is not 0 (60_exceptions.md R199; log 24). -/
def State.toneActive (s : State) : Bool := decide (s.st ≠ 0#8)

/-- `tone_end`, an event of the cycle just run (60_exceptions.md R198). -/
def State.toneEnd (s : State) : Bool := decide (s.event = some .toneEnd)

/-- `fatal`, raised once, in the cycle or load that made the mode Halted (10_state.md R42). -/
def State.fatalOut (s : State) : Option FaultRecord :=
  match s.event with
  | some (.fatal r) => some r
  | _ => none

/-- The code of a fatal kind (60_exceptions.md R181). -/
def fatalCode (k : FatalKind) : Nat :=
  match k with
  | .romLoadFailure => 1
  | .unrecognizedOpcode => 2
  | .stackOverflow => 3
  | .stackUnderflow => 4
  | .romTooLarge => 5
  | .addressOutOfRange => 6
  | .keyIndexOutOfRange => 7

end Sys2Proof.Machine
end

