-- ==== Sys2Proof/Safety.lean ====
section
/-! DEFINITION. The terms claims use: the invariant of the machine, the pieces of state, what each instruction may write. -/

namespace Sys2Proof.Safety

open Sys2Proof.Machine

/-- The invariant of every state a run can reach (10_state.md R44), and that no byte was ever stored outside memory. -/
structure Inv (s : State) : Prop where
  /-- Memory is in its canonical form. -/
  memWf : Memory.wf s.font s.mem
  /-- Every stored byte has an address of memory (20_memory.md R53). -/
  memRange : ∀ c ∈ s.mem, c.1 ≤ 4095
  /-- "PC stays within [0,4095]" (10_state.md R24). -/
  pcRange : s.pc.toNat ≤ 4095
  /-- A stack entry in use is at most 4096 (10_state.md R44; the lower bound depends on log 14 and is not claimed). -/
  stackRange : ∀ k, k < s.sp.val → (s.stackAt k).toNat ≤ 4096
  /-- The fault record is empty exactly while the mode is not Halted (10_state.md R36). -/
  faultMode : s.mode = .halted ↔ s.fault.isSome = true
  /-- While blocked, PC holds the address of the waiting FX0A (10_state.md R35). -/
  blockedWord : ∀ x, s.mode = .blockedOnKey x → fetch s = some (encode (.ldVxK x))

/-- The pieces of the state. -/
inductive Piece where
  | v | i | pc | stack | dt | st | keys | fb | redrawPending | mode | fault | mem | font | draws | event
  deriving DecidableEq, Repr

/-- One piece reads the same in `t` as in `s`. The stack is SP and the entries in use: entries at or above SP are not
meaningful (10_state.md R26). Memory is read byte by byte at every address. -/
def Same (p : Piece) (s t : State) : Prop :=
  match p with
  | .v => ∀ x, t.getV x = s.getV x
  | .i => t.i = s.i
  | .pc => t.pc = s.pc
  | .stack => t.sp = s.sp ∧ ∀ k, k < s.sp.val → t.stackAt k = s.stackAt k
  | .dt => t.dt = s.dt
  | .st => t.st = s.st
  | .keys => t.keys = s.keys
  | .fb => ∀ x y, Frame.cell t.fb x y = Frame.cell s.fb x y
  | .redrawPending => t.redrawPending = s.redrawPending
  | .mode => t.mode = s.mode
  | .fault => t.fault = s.fault
  | .mem => ∀ a, t.readByte a = s.readByte a
  | .font => t.font = s.font
  | .draws => t.draws = s.draws
  | .event => t.event = s.event

/-- Every piece reads the same but those of the list. -/
def SameBut (ps : List Piece) (s t : State) : Prop := ∀ p, p ∉ ps → Same p s t

/-- Every general register reads the same but `x`. -/
def SameVBut (x : RegIdx) (s t : State) : Prop := ∀ y, y ≠ x → t.getV y = s.getV y

/-- `t` is `s` with the fatal condition taken as 60_exceptions.md R186 says: Halted, the record written and sent out,
everything else as it was. -/
def Faulted (kind : FatalKind) (word : Option Word) (s t : State) : Prop :=
  t.mode = .halted ∧
  t.fault = some { kind := kind, word := word, pc := some s.pc, romLength := none } ∧
  t.event = some (.fatal { kind := kind, word := word, pc := some s.pc, romLength := none }) ∧
  SameBut [.mode, .fault, .event] s t

/-- The pieces that the rule of an instruction writes when it completes, PC apart (the instruction rules of 41_flow.md
to 46_keys_timers.md; `draws` is the model's counter of free values). -/
def writtenBy (i : Instr) : List Piece :=
  match i with
  | .cls => [.fb, .redrawPending]
  | .ret | .call _ => [.stack]
  | .jp _ | .jpV0 _ => []
  | .seImm _ _ | .sneImm _ _ | .seReg _ _ | .sneReg _ _ | .skp _ | .sknp _ => []
  | .ldImm _ _ | .addImm _ _ | .ldReg _ _ | .orReg _ _ | .andReg _ _ | .xorReg _ _ => [.v]
  | .addReg _ _ | .subReg _ _ | .shr _ _ | .subn _ _ | .shl _ _ => [.v]
  | .rnd _ _ => [.v, .draws]
  | .ldI _ | .addI _ | .ldF _ => [.i]
  | .drw _ _ _ => [.v, .fb, .redrawPending]
  | .ldVxDt _ | .loadRegs _ => [.v]
  | .ldVxK _ => [.v, .mode, .draws]
  | .ldDtVx _ => [.dt]
  | .ldStVx _ => [.st]
  | .ldB _ | .storeRegs _ => [.mem]

/-- The general registers an instruction writes: its V[X], VF where it defines a flag, V[0] to V[X] for FX65
(10_state.md R21, R22). -/
def writesReg (i : Instr) (y : RegIdx) : Prop :=
  match i with
  | .cls | .ret | .jp _ | .call _ | .ldI _ | .jpV0 _ => False
  | .seImm _ _ | .sneImm _ _ | .seReg _ _ | .sneReg _ _ | .skp _ | .sknp _ => False
  | .ldDtVx _ | .ldStVx _ | .addI _ | .ldF _ | .ldB _ | .storeRegs _ => False
  | .ldImm x _ | .addImm x _ | .ldReg x _ | .orReg x _ | .andReg x _ | .xorReg x _ => y = x
  | .rnd x _ | .ldVxDt x | .ldVxK x => y = x
  | .addReg x _ | .subReg x _ | .shr x _ | .subn x _ | .shl x _ => y = x ∨ y = 0xF#4
  | .drw _ _ _ => y = 0xF#4
  | .loadRegs x => y.toNat ≤ x.toNat

/-- How many bytes an instruction stores, from `s.addrI 0` up (20_memory.md R57). -/
def storedCount (i : Instr) : Nat :=
  match i with
  | .ldB _ => 3
  | .storeRegs x => x.toNat + 1
  | _ => 0

/-- The instructions that always advance by 2 and check no operand (10_state.md R25, first row, less DXYN, FX33, FX55, FX65). -/
def plainAdvance (i : Instr) : Bool :=
  match i with
  | .cls | .ldImm _ _ | .addImm _ _ | .ldReg _ _ | .orReg _ _ | .andReg _ _ | .xorReg _ _ => true
  | .addReg _ _ | .subReg _ _ | .shr _ _ | .subn _ _ | .shl _ _ | .rnd _ _ => true
  | .ldI _ | .addI _ | .ldF _ | .ldVxDt _ | .ldDtVx _ | .ldStVx _ => true
  | _ => false

/-- The sprite pixel that a DXYN of `s` puts on cell (col, row), on 45_display.md R161's numbering: the sprite column is
the distance from V[X] modulo 64, the sprite row the distance from V[Y] modulo 32. -/
def spriteOn (x y : RegIdx) (n : Nibble) (s : State) (col row : Nat) : Bool :=
  let c := (col + 64 - (s.getV x).toNat % 64) % 64
  let r := (row + 32 - (s.getV y).toNat % 32) % 32
  decide (c < 8) && decide (r < n.toNat) && (s.readByte (s.i.toNat + r)).getLsbD (7 - c)

/-- The highest address that a memory instruction touches, if it touches one (20_memory.md R54). -/
def lastOperand (i : Instr) (s : State) : Option Nat :=
  match i with
  | .drw _ _ n => if n = 0#4 then none else some (s.i.toNat + n.toNat - 1)
  | .ldB _ => some (s.i.toNat + 2)
  | .storeRegs x | .loadRegs x => some (s.i.toNat + x.toNat)
  | _ => none

/-! Shapes that several claims share; each says that the instruction ANSWERS a next state and what that state is. -/

/-- Instruction `i` completes with PC at `target` and everything else as it was. -/
def MovesPcTo (i : Instr) (s : State) (target : Nat) : Prop :=
  ∃ t, exec i s = .next t ∧ t.pc.toNat = target ∧ SameBut [.pc] s t

/-- Instruction `i` completes with `n` in V[x], PC advanced by 2 and everything else as it was. -/
def LoadsByte (i : Instr) (x : RegIdx) (n : Nat) (s : State) : Prop :=
  ∃ t, exec i s = .next t ∧ (t.getV x).toNat = n ∧ t.pc.toNat = s.pc.toNat + 2 ∧
    SameVBut x s t ∧ SameBut [.pc, .v] s t

/-- Instruction `i` completes with `n` in V[x], `f` in VF, PC advanced by 2 and everything else as it was. -/
def LoadsByteAndFlag (i : Instr) (x : RegIdx) (n f : Nat) (s : State) : Prop :=
  ∃ t, exec i s = .next t ∧ (t.getV x).toNat = n ∧ (t.getV 0xF#4).toNat = f ∧ t.pc.toNat = s.pc.toNat + 2 ∧
    (∀ y, y ≠ x → y ≠ 0xF#4 → t.getV y = s.getV y) ∧ SameBut [.pc, .v] s t

/-- Instruction `i` completes with `n` in I, PC advanced by 2 and everything else as it was. -/
def LoadsIndex (i : Instr) (n : Nat) (s : State) : Prop :=
  ∃ t, exec i s = .next t ∧ t.i.toNat = n ∧ t.pc.toNat = s.pc.toNat + 2 ∧ SameBut [.pc, .i] s t

/-- Instruction `i` takes the fatal condition `kind` with its own word recorded. -/
def Faults (kind : FatalKind) (i : Instr) (s : State) : Prop :=
  ∃ t, exec i s = .next t ∧ Faulted kind (some (encode i)) s t

/-- Where `skip_if(c)` goes (40_cycle.md R98). -/
def skipTarget (s : State) (c : Prop) [Decidable c] : Nat := s.pc.toNat + if c then 4 else 2

end Sys2Proof.Safety
end

