-- ==== Sys2Proof/Certificates/Slice0/Obligations.lean ====
section
/-! DEFINITION. The statements for the provers. Each docstring names the rule of spec/ it formalises or rests on. -/

open Sys2Proof Sys2Proof.Machine Sys2Proof.Safety

/-! Encoding -/

/-- 30_encoding.md R71: the six fields of every word, and how they overlap. -/
def Obligations.FieldsAreTheBitRangesOfTheWord : Prop :=
  ∀ w : Word,
    (fields w).op.toNat = w.toNat / 4096 ∧
    (fields w).x.toNat = w.toNat / 256 % 16 ∧
    (fields w).y.toNat = w.toNat / 16 % 16 ∧
    (fields w).n.toNat = w.toNat % 16 ∧
    (fields w).nn.toNat = w.toNat % 256 ∧
    (fields w).nnn.toNat = w.toNat % 4096 ∧
    (fields w).nn.toNat = (fields w).y.toNat * 16 + (fields w).n.toNat ∧
    (fields w).nnn.toNat = (fields w).x.toNat * 256 + (fields w).nn.toNat

/-- A word of each family decodes to the instruction that 95_test_vectors.md says it is (vectors D1, F1, X10, F6, K1, K8, X9,
X8, E3, M14, E8, in the statement's order), and words the spec calls unrecognized do not decode (X1, X2, X3, K12, K13, A36,
E7, X6). That 0x01E0, 0x5121 and 0x912F do not decode is the spec's resolution of conflict C3, a choice (log 10). -/
def Obligations.SampleWordsDecode : Prop :=
  decode 0x00E0#16 = .ok .cls ∧ decode 0x00EE#16 = .ok .ret ∧ decode 0x1234#16 = .ok (.jp 0x234#12) ∧
  decode 0x2210#16 = .ok (.call 0x210#12) ∧ decode 0x332A#16 = .ok (.seImm 3#4 0x2A#8) ∧
  decode 0x9120#16 = .ok (.sneReg 1#4 2#4) ∧ decode 0x8AB4#16 = .ok (.addReg 0xA#4 0xB#4) ∧
  decode 0xD9A5#16 = .ok (.drw 9#4 0xA#4 5#4) ∧ decode 0xE5A1#16 = .ok (.sknp 5#4) ∧
  decode 0xF265#16 = .ok (.loadRegs 2#4) ∧ decode 0xF20A#16 = .ok (.ldVxK 2#4) ∧
  decode 0x0000#16 = .error (.unrecognized 0x0000#16) ∧ decode 0x00E1#16 = .error (.unrecognized 0x00E1#16) ∧
  decode 0x01E0#16 = .error (.unrecognized 0x01E0#16) ∧ decode 0x5121#16 = .error (.unrecognized 0x5121#16) ∧
  decode 0x912F#16 = .error (.unrecognized 0x912F#16) ∧ decode 0x8128#16 = .error (.unrecognized 0x8128#16) ∧
  decode 0xE59F#16 = .error (.unrecognized 0xE59F#16) ∧ decode 0xFF75#16 = .error (.unrecognized 0xFF75#16)

/-- 30_encoding.md R74, R77, R78: decoding the word of an instruction gives it back, with every operand at every value; and
so does decoding its two bytes, high byte first (20_memory.md R55), whatever bytes follow. -/
def Obligations.DecodeOfEncodeIsTheInstruction : Prop :=
  ∀ (i : Instr) (rest : List Byte),
    decode (encode i) = .ok i ∧ decodeBytes (highByte (encode i) :: lowByte (encode i) :: rest) = .ok (i, rest)

/-- 30_encoding.md R75, R78: each word has one meaning; a decoded word is the word of its instruction, the ignored Y of
8XY6 and 8XYE included. -/
def Obligations.EncodeOfDecodeIsTheWord : Prop :=
  ∀ (w : Word) (i : Instr), decode w = .ok i → encode i = w

/-- 30_encoding.md R74, R79: a word decodes to an instruction whose row selects it, and is unrecognized exactly when none of
the 34 rows selects it. The full-pattern match is the spec's resolution C3 (log 10). -/
def Obligations.DecodeFollowsTheOpcodeMap : Prop :=
  ∀ w : Word,
    (∀ i, decode w = .ok i → opcodeRowOf i ∈ opcodeRows ∧ (opcodeRowOf i).selects w = true) ∧
    (decode w = .error (.unrecognized w) ↔ ∀ r ∈ opcodeRows, r.selects w = false)

/-- 30_encoding.md R74: "The rows are pairwise disjoint, so at most one row matches." -/
def Obligations.OpcodeRowsAreDisjoint : Prop :=
  ∀ (w : Word), ∀ r ∈ opcodeRows, ∀ q ∈ opcodeRows, r.selects w = true → q.selects w = true → r = q

/-! The cycle -/

/-- 40_cycle.md R92, R96: a cycle in mode Running whose fetched word decodes to `i` runs `exec i`, on the state with the
last cycle's event over (log 7), and then `endCycle`, which ticks the timers unless the execute stage was fatal. -/
def Obligations.StepRunsTheDecodedInstruction : Prop :=
  ∀ (s : State) (w : Word) (i : Instr), s.mode = .running → fetch s = some w → decode w = .ok i →
    step s = endCycle (exec i s.beginCycle)

/-- 20_memory.md R55: fetch is big-endian; at PC = 4095 it raises AddressOutOfRange with no word recorded and does not wrap.
That an address above 4095 is this fatal condition is the spec's decision D4 (log 9), that the cycle then changes nothing
else its decision D17 (log 16); what a fetch does at PC above 4095, where no run gets, is the model's choice (log 27). -/
def Obligations.FetchIsBigEndianAndNeverWraps : Prop :=
  ∀ s : State,
    (s.pc.toNat ≤ 4094 → ∃ w, fetch s = some w ∧
      w.toNat = (s.readByte s.pc.toNat).toNat * 256 + (s.readByte (s.pc.toNat + 1)).toNat) ∧
    (4095 ≤ s.pc.toNat → fetch s = none ∧
      (s.mode = .running → ∃ t, step s = .next t ∧ Faulted .addressOutOfRange none s t))

/-- 30_encoding.md R79, 40_cycle.md R96: a fetched word that no row selects halts the machine with the word and PC recorded;
that nothing else changes and no timer ticks is the spec's decision D17 (log 16). -/
def Obligations.UnrecognizedWordHalts : Prop :=
  ∀ (s : State) (w : Word), s.mode = .running → fetch s = some w → (∀ r ∈ opcodeRows, r.selects w = false) →
    ∃ t, step s = .next t ∧ Faulted .unrecognizedOpcode (some w) s t

/-- 60_exceptions.md R187: in mode Halted every host move but a reset leaves the machine Halted with the same fault record,
and a cycle raises no second `fatal` and changes nothing (`event` apart, the model's own field). That this holds after every
kind of fatal condition is the spec's decision D18 (log 16). -/
def Obligations.HaltedIsAbsorbing : Prop :=
  ∀ (m : HostMove) (s : State), s.mode = .halted → (∀ rom, m ≠ .resetLoad rom) → m ≠ .resetLoadFailure →
    ∃ t, hostMove m s = .next t ∧ t.mode = .halted ∧ t.fault = s.fault ∧
      (m = .cycleReq → t.event = none ∧ SameBut [.event] s t)

/-- No instruction and no cycle ends in a fault or a refusal of the model: every fatal condition is a next state in mode
Halted (60_exceptions.md R186; log 6). -/
def Obligations.EveryStepAnswersNext : Prop :=
  (∀ (i : Instr) (s : State), ∃ t, exec i s = .next t) ∧ (∀ s : State, ∃ t, step s = .next t)

/-- 60_exceptions.md R186 (precision is the spec's decision D17, log 16): a cycle that halts the machine has changed nothing
but `mode` and `fault` (and `event`, the model's own), has recorded PC and sent the record out; in mode Running the recorded
word is the fetched one, absent exactly when the fetch itself failed (R181). -/
def Obligations.FatalConditionsArePrecise : Prop :=
  ∀ s t : State, s.mode ≠ .halted → step s = .next t → t.mode = .halted →
    ∃ r, t.fault = some r ∧ t.event = some (.fatal r) ∧ r.pc = some s.pc ∧ r.romLength = none ∧
      (s.mode = .running → r.word = fetch s) ∧ SameBut [.mode, .fault, .event] s t

/-- 10_state.md R44 and R35 (inferences the spec marks as its own): every cycle keeps the invariant, from every state that
meets it. The canonical form of memory is the model's (log 26). -/
def Obligations.EveryStepKeepsInv : Prop :=
  ∀ s t : State, Inv s → step s = .next t → Inv t

/-- 10_state.md R43, R44: the state after reset meets the invariant. -/
def Obligations.ResetMeetsInv : Prop := Inv State.reset

/-- 70_reset_and_hazards.md R218, R219: a `cycle_req` is one step; every move of the host, a cycle included, answers a next state
and keeps the invariant; a load, of any ROM or failed, establishes it from any state. -/
def Obligations.HostMovesKeepInv : Prop :=
  (∀ s : State, hostMove .cycleReq s = step s) ∧
  (∀ (m : HostMove) (s : State), ∃ t, hostMove m s = .next t ∧ (Inv s → Inv t)) ∧
  (∀ (rom : List Byte) (s t : State), hostMove (.resetLoad rom) s = .next t ∨ hostMove .resetLoadFailure s = .next t → Inv t)

/-- 10_state.md R35 (an inference the spec marks as its own): a blocked cycle and a re-execution of the FX0A at the unchanged
PC "are the same machine". The recorded word of a fatal blocked cycle is the model's reading (log 8). -/
def Obligations.BlockedCycleIsReexecution : Prop :=
  ∀ (s : State) (x : RegIdx), Inv s → s.mode = .blockedOnKey x → step s = step (s.setMode .running)

/-- 60_exceptions.md R196: the tick comes after the execute stage of every cycle that is not fatal, in mode Running and in mode
BlockedOnKey alike, takes each timer down by one while above 0, and raises `tone_end` when ST goes from 1 to 0; a fatal
cycle and a cycle in mode Halted do not tick. The cadence, the tick while blocked and the missing tick of a fatal cycle are the
spec's decisions D31, D9 and D17 (logs 25, 16). -/
def Obligations.TimersTickAtTheEndOfEachCycle : Prop :=
  (∀ (s u : State) (w : Word) (i : Instr) (x : RegIdx),
    (s.mode = .running ∧ fetch s = some w ∧ decode w = .ok i ∧ exec i s.beginCycle = .next u) ∨
      (s.mode = .blockedOnKey x ∧ keyWait x s.beginCycle = .next u) →
    (u.mode ≠ .halted → ∃ t, step s = .next t ∧ t.dt.toNat = u.dt.toNat - 1 ∧ t.st.toNat = u.st.toNat - 1 ∧
      (t.event = some .toneEnd ↔ u.st.toNat = 1) ∧ SameBut [.dt, .st, .event] u t) ∧
    (u.mode = .halted → step s = .next u ∧ u.dt = s.dt ∧ u.st = s.st)) ∧
  (∀ s : State, s.mode = .halted → ∃ t, step s = .next t ∧ t.dt = s.dt ∧ t.st = s.st ∧ t.event = none)

/-- 40_cycle.md R93, 46_keys_timers.md R173: a blocked cycle without a key ticks the timers and changes nothing else; with a
key pressed it ends the wait, V[x] gets a pressed key's index and the timers tick. Which key is free (D8, log 4); the tick while blocked is D9 (log 25). -/
def Obligations.BlockedCycleWaitsForAKey : Prop :=
  ∀ (s : State) (x : RegIdx), s.mode = .blockedOnKey x →
    (s.keys = 0#16 → ∃ t, step s = .next t ∧ t.dt.toNat = s.dt.toNat - 1 ∧ t.st.toNat = s.st.toNat - 1 ∧
      SameBut [.dt, .st, .event] s t) ∧
    (s.keys ≠ 0#16 → s.pc.toNat ≤ 4093 → ∃ t, ∃ k : BitVec 4, step s = .next t ∧
      s.keys.getLsbD k.toNat = true ∧ (t.getV x).toNat = k.toNat ∧ SameVBut x s t ∧ t.mode = .running ∧
      t.pc.toNat = s.pc.toNat + 2 ∧ t.dt.toNat = s.dt.toNat - 1 ∧ t.st.toNat = s.st.toNat - 1 ∧
      SameBut [.v, .pc, .mode, .dt, .st, .draws, .event] s t)

/-! Whole-machine frames -/

/-- The instruction rules of 41_flow.md to 46_keys_timers.md with 10_state.md R20's column "written by": an execute stage
either takes a fatal condition and changes nothing else (the spec's decision D17, log 16), or changes nothing but PC and the
pieces its instruction writes. -/
def Obligations.EveryInstructionWritesOnlyItsPieces : Prop :=
  ∀ (i : Instr) (s t : State), exec i s = .next t →
    SameBut (.pc :: writtenBy i) s t ∨ ∃ kind, Faulted kind (some (encode i)) s t

/-- 10_state.md R21, R22: no instruction writes a general register but those it names, VF where it defines a flag, and V[0]
to V[X] for FX65. -/
def Obligations.RegistersWrittenByEachInstruction : Prop :=
  ∀ (i : Instr) (s t : State) (y : RegIdx), exec i s = .next t → ¬ writesReg i y → t.getV y = s.getV y

/-- 20_memory.md R50, R57: FX33 and FX55 store from the address `s.addrI 0` up, three bytes and X + 1 bytes; every byte outside
reads as before, and so does every byte after any other instruction (for which `storedCount` is 0). -/
def Obligations.BytesWrittenByEachInstruction : Prop :=
  ∀ (i : Instr) (s t : State) (a : Nat), exec i s = .next t →
    (a < s.addrI 0 ∨ s.addrI 0 + storedCount i ≤ a) → t.readByte a = s.readByte a

/-- 60_exceptions.md R203: mode BlockedOnKey(x) after a cycle means that no key was pressed and that the machine was blocked
so already or ran an FX0A with field X = x: "no other instruction blocks". -/
def Obligations.OnlyTheKeyWaitBlocks : Prop :=
  ∀ (s t : State) (x : RegIdx), step s = .next t → t.mode = .blockedOnKey x →
    s.keys = 0#16 ∧ (s.mode = .blockedOnKey x ∨ (s.mode = .running ∧ fetch s = some (encode (.ldVxK x))))

/-- 10_state.md R32: "The CORE never writes `keys`"; and no cycle changes the parameter FONT (log 2). -/
def Obligations.CyclesKeepKeysAndFont : Prop :=
  ∀ s t : State, step s = .next t → t.keys = s.keys ∧ t.font = s.font

/-- 45_display.md R162: 00E0 sets cells to 0, DXYN toggles cells, and no other instruction changes a cell; "No instruction reads
a cell into a register; the only way a program learns a cell's value is the collision flag": two states that differ only in
the framebuffer differ, after the same instruction, only in the framebuffer, and in VF if it was a DXYN. -/
def Obligations.CellsAreWrittenAndReadByDisplayInstructionsOnly : Prop :=
  ∀ (i : Instr) (s t : State), exec i s = .next t →
    (∀ col row, Frame.cell t.fb col row = Frame.cell s.fb col row ∨
      (i = .cls ∧ Frame.cell t.fb col row = false) ∨
      (∃ x y n, i = .drw x y n ∧ Frame.cell t.fb col row = !Frame.cell s.fb col row)) ∧
    ∀ (f : Frame) (t' : State), exec i { s with fb := f } = .next t' →
      SameBut [.v, .fb] t t' ∧ ∀ z, t'.getV z = t.getV z ∨ (z = 0xF#4 ∧ ∃ x y n, i = .drw x y n)

/-! Control transfer (41_flow.md) -/

/-- 41_flow.md R111: 1NNN, with its encoding; no flag, no fatal condition, whatever the state. -/
def Obligations.JumpSetsPc : Prop :=
  ∀ (nnn : Addr) (s : State), (encode (.jp nnn)).toNat = 0x1000 + nnn.toNat ∧ MovesPcTo (.jp nnn) s nnn.toNat

/-- 41_flow.md R112 for SP < 16: PC at NNN, one entry more, a return from here goes to PC + 2 (16 bits). It is said through
`returnAddress` and not through the numbers in the stack, as 90_conflicts.md C6 asks (the pushed value is log 14). -/
def Obligations.CallPushesReturnAddress : Prop :=
  ∀ (nnn : Addr) (s : State), s.sp.val < 16 →
    ∃ t, exec (.call nnn) s = .next t ∧ t.pc.toNat = nnn.toNat ∧ t.sp.val = s.sp.val + 1 ∧
      t.returnAddress = (s.pc.toNat + 2) % 65536 ∧ (∀ k, k < s.sp.val → t.stackAt k = s.stackAt k) ∧
      SameBut [.pc, .stack] s t

/-- 41_flow.md R110 for SP > 0 and a return address of at most 4095: PC there with no further advance, one entry less. -/
def Obligations.ReturnGoesToReturnAddress : Prop :=
  ∀ s : State, 0 < s.sp.val → s.returnAddress ≤ 4095 →
    ∃ t, exec .ret s = .next t ∧ t.pc.toNat = s.returnAddress ∧ t.sp.val + 1 = s.sp.val ∧
      (∀ k, k < t.sp.val → t.stackAt k = s.stackAt k) ∧ SameBut [.pc, .stack] s t

/-- The source's property S5 in 41_flow.md R110: "2NNN followed by 00EE restores PC to (PC_before_call + 2) and SP to its
pre-call value." -/
def Obligations.CallThenReturnRestores : Prop :=
  ∀ (nnn : Addr) (s : State), s.sp.val < 16 → s.pc.toNat ≤ 4093 →
    ∃ t u, exec (.call nnn) s = .next t ∧ exec .ret t = .next u ∧ u.pc.toNat = s.pc.toNat + 2 ∧ SameBut [.pc] s u

/-- 10_state.md R27 to R29, 41_flow.md R110, R112: a call with 16 entries in use and a return with none are fatal and change
nothing else (D17, log 16); a return to an address above 4095 is AddressOutOfRange (the spec's decision D5, log 9). -/
def Obligations.StackFaults : Prop :=
  ∀ (nnn : Addr) (s : State),
    (s.sp.val = 16 → Faults .stackOverflow (.call nnn) s) ∧
    (s.sp.val = 0 → Faults .stackUnderflow .ret s) ∧
    (0 < s.sp.val → 4095 < s.returnAddress → Faults .addressOutOfRange .ret s)

/-- 41_flow.md R113: PC = NNN + V[0] where that is at most 4095; above, AddressOutOfRange (the spec's decision D5, log 9). -/
def Obligations.IndexedJumpAddsV0 : Prop :=
  ∀ (nnn : Addr) (s : State),
    (nnn.toNat + (s.getV 0#4).toNat ≤ 4095 → MovesPcTo (.jpV0 nnn) s (nnn.toNat + (s.getV 0#4).toNat)) ∧
    (4095 < nnn.toNat + (s.getV 0#4).toNat → Faults .addressOutOfRange (.jpV0 nnn) s)

/-! Skips (42_skip.md) -/

/-- 42_skip.md R120, R121. -/
def Obligations.ImmediateSkips : Prop :=
  ∀ (x : RegIdx) (nn : Byte) (s : State),
    (skipTarget s (s.getV x = nn) ≤ 4095 → MovesPcTo (.seImm x nn) s (skipTarget s (s.getV x = nn))) ∧
    (skipTarget s (s.getV x ≠ nn) ≤ 4095 → MovesPcTo (.sneImm x nn) s (skipTarget s (s.getV x ≠ nn)))

/-- 42_skip.md R122, R123. -/
def Obligations.RegisterSkips : Prop :=
  ∀ (x y : RegIdx) (s : State),
    (skipTarget s (s.getV x = s.getV y) ≤ 4095 → MovesPcTo (.seReg x y) s (skipTarget s (s.getV x = s.getV y))) ∧
    (skipTarget s (s.getV x ≠ s.getV y) ≤ 4095 → MovesPcTo (.sneReg x y) s (skipTarget s (s.getV x ≠ s.getV y)))

/-- 40_cycle.md R97 (the spec's decision D5, log 9): where the advance or the skip would leave PC above 4095, the instruction is
AddressOutOfRange and nothing is written (D17, log 16). First the advancing instructions (those of memory with their operand check passed),
then the skips, then the end of a key wait. -/
def Obligations.PcWritesAbove4095Fault : Prop :=
  (∀ (i : Instr) (s : State),
    (plainAdvance i = true ∨ (∃ a, lastOperand i s = some a ∧ a ≤ 4095) ∨ ∃ x y, i = .drw x y 0#4) →
    4094 ≤ s.pc.toNat → Faults .addressOutOfRange i s) ∧
  (∀ (x y : RegIdx) (nn : Byte) (s : State),
    (4095 < skipTarget s (s.getV x = nn) → Faults .addressOutOfRange (.seImm x nn) s) ∧
    (4095 < skipTarget s (s.getV x ≠ nn) → Faults .addressOutOfRange (.sneImm x nn) s) ∧
    (4095 < skipTarget s (s.getV x = s.getV y) → Faults .addressOutOfRange (.seReg x y) s) ∧
    (4095 < skipTarget s (s.getV x ≠ s.getV y) → Faults .addressOutOfRange (.sneReg x y) s)) ∧
  (∀ (x : RegIdx) (s : State), s.keys ≠ 0#16 → 4094 ≤ s.pc.toNat → Faults .addressOutOfRange (.ldVxK x) s)

/-! Register load and ALU (43_alu.md) -/

/-- 43_alu.md R132, R133, R134: load immediate, add immediate modulo 256 with no flag, copy. X = 0xF is an ordinary
destination here (90_conflicts.md C5). -/
def Obligations.LoadsAndAddImmediate : Prop :=
  ∀ (x y : RegIdx) (nn : Byte) (s : State), s.pc.toNat ≤ 4093 →
    LoadsByte (.ldImm x nn) x nn.toNat s ∧
    LoadsByte (.addImm x nn) x (((s.getV x).toNat + nn.toNat) % 256) s ∧
    LoadsByte (.ldReg x y) x (s.getV y).toNat s

/-- 43_alu.md R135, R136, R137: bit by bit, no flag. -/
def Obligations.LogicalOperations : Prop :=
  ∀ (x y : RegIdx) (s : State), s.pc.toNat ≤ 4093 →
    LoadsByte (.orReg x y) x ((s.getV x).toNat ||| (s.getV y).toNat) s ∧
    LoadsByte (.andReg x y) x ((s.getV x).toNat &&& (s.getV y).toNat) s ∧
    LoadsByte (.xorReg x y) x ((s.getV x).toNat ^^^ (s.getV y).toNat) s

/-- 43_alu.md R138 for X other than 0xF (`FlagWinsInVF` has X = 0xF): "VF=1 iff sum>255, kept mod 256". For Y = 0xF the operand
is the old VF: that operands are read before VF is written is the spec's decision D10, a choice (R131; log 12). -/
def Obligations.AddWritesCarry : Prop :=
  ∀ (x y : RegIdx) (s : State), s.pc.toNat ≤ 4093 → x ≠ 0xF#4 →
    LoadsByteAndFlag (.addReg x y) x (((s.getV x).toNat + (s.getV y).toNat) % 256)
      (if 255 < (s.getV x).toNat + (s.getV y).toNat then 1 else 0) s

/-- 43_alu.md R139, R141 for X other than 0xF (`FlagWinsInVF` has X = 0xF): VF = 1 iff no borrow, equal operands included. For
Y = 0xF the operand is the old VF: that operands are read before VF is written is the spec's decision D10, a choice (R131;
log 12). -/
def Obligations.SubtractsWriteNoBorrow : Prop :=
  ∀ (x y : RegIdx) (s : State), s.pc.toNat ≤ 4093 → x ≠ 0xF#4 →
    LoadsByteAndFlag (.subReg x y) x (((s.getV x).toNat + 256 - (s.getV y).toNat) % 256)
      (if (s.getV y).toNat ≤ (s.getV x).toNat then 1 else 0) s ∧
    LoadsByteAndFlag (.subn x y) x (((s.getV y).toNat + 256 - (s.getV x).toNat) % 256)
      (if (s.getV x).toNat ≤ (s.getV y).toNat then 1 else 0) s

/-- 43_alu.md R140, R142 for X other than 0xF, and 30_encoding.md R75: one place, logical, VF = the bit shifted out, whatever Y. -/
def Obligations.ShiftsWriteTheBitShiftedOut : Prop :=
  ∀ (x y : RegIdx) (s : State), s.pc.toNat ≤ 4093 → x ≠ 0xF#4 →
    LoadsByteAndFlag (.shr x y) x ((s.getV x).toNat / 2) ((s.getV x).toNat % 2) s ∧
    LoadsByteAndFlag (.shl x y) x ((s.getV x).toNat * 2 % 256) ((s.getV x).toNat / 128) s

/-- With X = 0xF the flag wins over the result, and the old VF is the operand. NOT a rule of the source: it is the spec's own
decision D10 (43_alu.md R131), which the model follows (log 12). -/
def Obligations.FlagWinsInVF : Prop :=
  ∀ (y : RegIdx) (s : State), s.pc.toNat ≤ 4093 →
    LoadsByte (.addReg 0xF#4 y) 0xF#4 (if 255 < (s.getV 0xF#4).toNat + (s.getV y).toNat then 1 else 0) s ∧
    LoadsByte (.subReg 0xF#4 y) 0xF#4 (if (s.getV y).toNat ≤ (s.getV 0xF#4).toNat then 1 else 0) s ∧
    LoadsByte (.subn 0xF#4 y) 0xF#4 (if (s.getV 0xF#4).toNat ≤ (s.getV y).toNat then 1 else 0) s ∧
    LoadsByte (.shr 0xF#4 y) 0xF#4 ((s.getV 0xF#4).toNat % 2) s ∧
    LoadsByte (.shl 0xF#4 y) 0xF#4 ((s.getV 0xF#4).toNat / 128) s

/-- 43_alu.md R143: the free byte of this draw AND NN, so no bit outside NN; one draw is consumed (log 3). -/
def Obligations.RandomByteIsMasked : Prop :=
  ∀ (x : RegIdx) (nn : Byte) (s : State), s.pc.toNat ≤ 4093 →
    ∃ t, exec (.rnd x nn) s = .next t ∧ t.getV x = Config.randByte s.draws &&& nn ∧
      t.getV x &&& ~~~nn = 0#8 ∧ t.pc.toNat = s.pc.toNat + 2 ∧ t.draws = s.draws + 1 ∧
      SameVBut x s t ∧ SameBut [.pc, .v, .draws] s t

/-! Index and memory (44_index_memory.md) -/

/-- 44_index_memory.md R150, R152: I = NNN; I = V[X] * 5 with the whole byte, not masked. -/
def Obligations.IndexLoads : Prop :=
  ∀ (nnn : Addr) (x : RegIdx) (s : State), s.pc.toNat ≤ 4093 →
    LoadsIndex (.ldI nnn) nnn.toNat s ∧ LoadsIndex (.ldF x) ((s.getV x).toNat * 5) s

/-- 44_index_memory.md R151: a sum of at most 65535 is written whole, no fault and no flag even above 4095; the wrap past 65535
is the spec's own decision D6 (log 15). -/
def Obligations.AddIndexWraps : Prop :=
  ∀ (x : RegIdx) (s : State), s.pc.toNat ≤ 4093 →
    LoadsIndex (.addI x) ((s.i.toNat + (s.getV x).toNat) % 65536) s

/-- 44_index_memory.md R153: the three decimal digits at I, I + 1, I + 2, and no other byte. -/
def Obligations.BcdStoresThreeDigits : Prop :=
  ∀ (x : RegIdx) (s : State), s.pc.toNat ≤ 4093 → s.i.toNat + 2 ≤ 4095 →
    ∃ t, exec (.ldB x) s = .next t ∧
      (t.readByte s.i.toNat).toNat = (s.getV x).toNat / 100 ∧
      (t.readByte (s.i.toNat + 1)).toNat = (s.getV x).toNat / 10 % 10 ∧
      (t.readByte (s.i.toNat + 2)).toNat = (s.getV x).toNat % 10 ∧
      (∀ a, a < s.i.toNat ∨ s.i.toNat + 3 ≤ a → t.readByte a = s.readByte a) ∧
      t.pc.toNat = s.pc.toNat + 2 ∧ SameBut [.pc, .mem] s t

/-- 44_index_memory.md R154: V[0] to V[X] inclusive at I up, no other byte; I unchanged (the spec's decision D23, log 21). -/
def Obligations.StoreRegisters : Prop :=
  ∀ (x : RegIdx) (s : State), s.pc.toNat ≤ 4093 → s.i.toNat + x.toNat ≤ 4095 →
    ∃ t, exec (.storeRegs x) s = .next t ∧
      (∀ y : RegIdx, y.toNat ≤ x.toNat → t.readByte (s.i.toNat + y.toNat) = s.getV y) ∧
      (∀ a, a < s.i.toNat ∨ s.i.toNat + x.toNat < a → t.readByte a = s.readByte a) ∧
      t.pc.toNat = s.pc.toNat + 2 ∧ SameBut [.pc, .mem] s t

/-- 44_index_memory.md R155: V[0] to V[X] inclusive from I up, no other register; I and memory unchanged (D23, log 21). -/
def Obligations.LoadRegisters : Prop :=
  ∀ (x : RegIdx) (s : State), s.pc.toNat ≤ 4093 → s.i.toNat + x.toNat ≤ 4095 →
    ∃ t, exec (.loadRegs x) s = .next t ∧
      (∀ y : RegIdx, y.toNat ≤ x.toNat → t.getV y = s.readByte (s.i.toNat + y.toNat)) ∧
      (∀ y : RegIdx, x.toNat < y.toNat → t.getV y = s.getV y) ∧
      t.pc.toNat = s.pc.toNat + 2 ∧ SameBut [.pc, .v] s t

/-- 20_memory.md R54 (the spec's decisions D4 and D17, logs 9 and 16): where the highest address is above 4095, DXYN, FX33, FX55
and FX65 are AddressOutOfRange and write nothing, even when PC + 2 would fault too. -/
def Obligations.MemoryOperandFaults : Prop :=
  ∀ (i : Instr) (s : State) (a : Nat), lastOperand i s = some a → 4095 < a → Faults .addressOutOfRange i s

/-- 20_memory.md R62: two bytes that an FX55 stored are what a fetch at their address sees at once. -/
def Obligations.StoredBytesAreFetched : Prop :=
  ∀ (x : RegIdx) (s : State) (k : Nat), s.pc.toNat ≤ 4093 → s.i.toNat + x.toNat ≤ 4095 → k < x.toNat →
    ∃ t w, exec (.storeRegs x) s = .next t ∧ fetch (t.setPc (BitVec.ofNat 16 (s.i.toNat + k))) = some w ∧
      w.toNat = (s.getV (BitVec.ofNat 4 k)).toNat * 256 + (s.getV (BitVec.ofNat 4 (k + 1))).toNat

/-! Display (45_display.md) -/

/-- 45_display.md R160: every cell 0, VF unchanged, the redraw flag set (on a clear screen too: the spec's decision D14,
log 13). -/
def Obligations.ClearScreen : Prop :=
  ∀ s : State, s.pc.toNat ≤ 4093 →
    ∃ t, exec .cls s = .next t ∧ (∀ x y, x < 64 → y < 32 → Frame.cell t.fb x y = false) ∧ t.redrawPending = true ∧
      t.pc.toNat = s.pc.toNat + 2 ∧ SameBut [.pc, .fb, .redrawPending] s t

/-- 45_display.md R161: each cell of the grid is XORed with the sprite's pixel there, coordinates taken modulo 64 and 32; VF is 1
when some cell went from 1 to 0 and 0 otherwise; operands as before the instruction, X or Y = 0xF included. That a row is
a byte with bit 7 leftmost, that every pixel wraps, that VF is written last and that the redraw flag is always set are the spec's decisions D12, D13,
D10 and D14 (logs 12, 13). -/
def Obligations.DrawXorsTheSprite : Prop :=
  ∀ (x y : RegIdx) (n : Nibble) (s : State), s.pc.toNat ≤ 4093 →
    (∀ a, lastOperand (.drw x y n) s = some a → a ≤ 4095) →
    ∃ t, exec (.drw x y n) s = .next t ∧
      (∀ col row, col < 64 → row < 32 →
        Frame.cell t.fb col row = (Frame.cell s.fb col row ^^ spriteOn x y n s col row)) ∧
      ((t.getV 0xF#4).toNat = 1 ∧
          (∃ col row, col < 64 ∧ row < 32 ∧ Frame.cell s.fb col row = true ∧ Frame.cell t.fb col row = false) ∨
        (t.getV 0xF#4).toNat = 0 ∧
          ¬ ∃ col row, col < 64 ∧ row < 32 ∧ Frame.cell s.fb col row = true ∧ Frame.cell t.fb col row = false) ∧
      t.redrawPending = true ∧ t.pc.toNat = s.pc.toNat + 2 ∧ SameVBut 0xF#4 s t ∧
      SameBut [.pc, .v, .fb, .redrawPending] s t

/-- The source's property S6 in 45_display.md R161: the same sprite drawn twice at the same place restores every cell, and VF
"reflects collision only when a set bit is actually cleared": the second draw sets VF exactly when the sprite lights some cell
that was 0 before the first. (R161's corner case says "when the sprite has at least one 1 bit", which its own pseudocode gives
only where the cells under the sprite were clear before; log 23.) X and Y are not 0xF, for the first draw rewrites VF and so
moves the place. The pixel layout is the spec's decisions D12, D13 (log 13). -/
def Obligations.DrawingTwiceRestores : Prop :=
  ∀ (x y : RegIdx) (n : Nibble) (s : State), s.pc.toNat ≤ 4093 →
    (∀ a, lastOperand (.drw x y n) s = some a → a ≤ 4095) → x ≠ 0xF#4 → y ≠ 0xF#4 →
    ∃ t u, exec (.drw x y n) s = .next t ∧ exec (.drw x y n) (t.setPc s.pc) = .next u ∧
      (∀ col row, Frame.cell u.fb col row = Frame.cell s.fb col row) ∧
      ((u.getV 0xF#4).toNat = 1 ↔
        ∃ col row, col < 64 ∧ row < 32 ∧ Frame.cell s.fb col row = false ∧ spriteOn x y n s col row = true)

/-- 10_state.md R42 (the layout is the spec's decision D25, log 19): `fb_out` has 2048 cells, cell (x, y) at index 64 * y + x. -/
def Obligations.FramebufferOutputIsRowMajor : Prop :=
  ∀ s : State, s.fbOut.length = 2048 ∧
    ∀ x y, x < 64 → y < 32 → s.fbOut[64 * y + x]? = some (Frame.cell s.fb x y)

/-! Keys and timers (46_keys_timers.md) -/

/-- 46_keys_timers.md R170, R171 for V[X] of at most 15: the skip is on the level of that key in this cycle's sample, which the
model holds in `keys` (D28, log 5). -/
def Obligations.KeySkips : Prop :=
  ∀ (x : RegIdx) (s : State), (s.getV x).toNat ≤ 15 →
    (skipTarget s (s.keys.getLsbD (s.getV x).toNat = true) ≤ 4095 →
      MovesPcTo (.skp x) s (skipTarget s (s.keys.getLsbD (s.getV x).toNat = true))) ∧
    (skipTarget s (s.keys.getLsbD (s.getV x).toNat = false) ≤ 4095 →
      MovesPcTo (.sknp x) s (skipTarget s (s.keys.getLsbD (s.getV x).toNat = false)))

/-- 46_keys_timers.md R170, R171: an index above 15 is fatal (the spec's decision D7, log 11), before the PC write (R189, D35);
and with an index in range a skip above 4095 is AddressOutOfRange (D5, log 9). -/
def Obligations.KeySkipFaults : Prop :=
  ∀ (x : RegIdx) (s : State),
    (15 < (s.getV x).toNat → Faults .keyIndexOutOfRange (.skp x) s ∧ Faults .keyIndexOutOfRange (.sknp x) s) ∧
    ((s.getV x).toNat ≤ 15 →
      (4095 < skipTarget s (s.keys.getLsbD (s.getV x).toNat = true) → Faults .addressOutOfRange (.skp x) s) ∧
      (4095 < skipTarget s (s.keys.getLsbD (s.getV x).toNat = false) → Faults .addressOutOfRange (.sknp x) s))

/-- 46_keys_timers.md R172, R173: without a pressed key FX0A changes the mode alone; with one it stores the index of some
pressed key (which one is free, log 4; the pressed one where there is one), advances, and the machine runs on. -/
def Obligations.KeyWaitStoresAPressedKey : Prop :=
  ∀ (x : RegIdx) (s : State),
    (s.keys = 0#16 → ∃ t, exec (.ldVxK x) s = .next t ∧ t.mode = .blockedOnKey x ∧ SameBut [.mode] s t) ∧
    (s.keys ≠ 0#16 → s.pc.toNat ≤ 4093 → ∃ t, ∃ k : BitVec 4, exec (.ldVxK x) s = .next t ∧
      s.keys.getLsbD k.toNat = true ∧ (t.getV x).toNat = k.toNat ∧ t.mode = .running ∧
      t.pc.toNat = s.pc.toNat + 2 ∧ SameVBut x s t ∧ SameBut [.pc, .v, .mode, .draws] s t)

/-- 46_keys_timers.md R174, R175, R176, the execute stage: DT as it stands before the tick is read, DT and ST are loaded. -/
def Obligations.TimerAccess : Prop :=
  ∀ (x : RegIdx) (s : State), s.pc.toNat ≤ 4093 →
    LoadsByte (.ldVxDt x) x s.dt.toNat s ∧
    (∃ t, exec (.ldDtVx x) s = .next t ∧ t.dt = s.getV x ∧ t.pc.toNat = s.pc.toNat + 2 ∧ SameBut [.pc, .dt] s t) ∧
    (∃ t, exec (.ldStVx x) s = .next t ∧ t.st = s.getV x ∧ t.pc.toNat = s.pc.toNat + 2 ∧ SameBut [.pc, .st] s t)

/-! Reset, load and the host (70_reset_and_hazards.md) -/

/-- 10_state.md R43: the state after the load of an empty ROM. PC = 512 is the spec's decision D1 (log 1) and the font bytes are
whatever FONT is (log 2). -/
def Obligations.ResetValues : Prop :=
  (∀ x, State.reset.getV x = 0#8) ∧ State.reset.i = 0#16 ∧ State.reset.pc.toNat = 512 ∧
  (∀ k, State.reset.stackAt k = 0#16) ∧ State.reset.sp.val = 0 ∧ State.reset.dt = 0#8 ∧ State.reset.st = 0#8 ∧
  State.reset.keys = 0#16 ∧ (∀ x y, Frame.cell State.reset.fb x y = false) ∧ State.reset.redrawPending = false ∧
  State.reset.mode = .running ∧ State.reset.fault = none ∧
  (∀ a, (h : a < 80) → State.reset.readByte a = State.reset.font[a]) ∧ (∀ a, 80 ≤ a → State.reset.readByte a = 0#8)

/-- 70_reset_and_hazards.md R210, R211, 10_state.md R43: the host's load of a ROM of at most 3584 bytes puts it at 512 up, FONT
at 0 to 79, 0 at every other address, every register 0, PC 512 (D1, log 1), mode Running, whatever the state before. -/
def Obligations.LoadPlacesTheRom : Prop :=
  ∀ (s : State) (rom : List Byte), rom.length ≤ 3584 →
    ∃ t, hostMove (.resetLoad rom) s = .next t ∧
      (∀ k, (h : k < rom.length) → t.readByte (512 + k) = rom[k]) ∧
      (∀ a, (h : a < 80) → t.readByte a = s.font[a]) ∧
      (∀ a, 80 ≤ a → a < 512 ∨ 512 + rom.length ≤ a → t.readByte a = 0#8) ∧
      t.pc.toNat = 512 ∧ t.mode = .running ∧ t.fault = none ∧
      SameBut [.pc, .mem, .font, .draws] State.reset t

/-- 70_reset_and_hazards.md R211, R212 (state left behind: the spec's decision D27, log 17): the host's load of an oversized ROM
and its report of a failed load leave mode Halted with the kind (and the length) recorded and sent out, no ROM byte copied,
the font in place, all else 0. -/
def Obligations.RejectedLoadsHalt : Prop :=
  ∀ (s : State) (m : HostMove) (kind : FatalKind) (len : Option Nat),
    (∃ rom : List Byte, 3584 < rom.length ∧ m = .resetLoad rom ∧ kind = .romTooLarge ∧ len = some rom.length) ∨
      (m = .resetLoadFailure ∧ kind = .romLoadFailure ∧ len = none) →
    ∃ t, hostMove m s = .next t ∧ t.mode = .halted ∧
      t.fault = some { kind := kind, word := none, pc := none, romLength := len } ∧
      t.fatalOut = t.fault ∧ t.pc = 0#16 ∧
      (∀ a, (h : a < 80) → t.readByte a = s.font[a]) ∧ (∀ a, 80 ≤ a → t.readByte a = 0#8) ∧
      SameBut [.pc, .mode, .fault, .event, .mem, .font, .draws] State.reset t

/-- 70_reset_and_hazards.md R221: a cycle that changed a cell leaves the flag 1; the acknowledge sets it to 0 and changes nothing
else; without one the flag stays 1 through every other move of the host but a reset, which clears all state (R210). (That a
write which changes no cell raises it too is D14, log 13; it is in `ClearScreen` and `DrawXorsTheSprite`.) -/
def Obligations.RedrawFlagIsRaisedAndAcknowledged : Prop :=
  (∀ s : State, ∃ t, hostMove .redrawAck s = .next t ∧ t.redrawPending = false ∧ SameBut [.redrawPending] s t) ∧
  (∀ s t : State, hostMove .cycleReq s = .next t →
    (∃ col row, Frame.cell t.fb col row ≠ Frame.cell s.fb col row) → t.redrawPending = true) ∧
  (∀ (m : HostMove) (s t : State), hostMove m s = .next t →
    m ≠ .redrawAck → (∀ rom, m ≠ .resetLoad rom) → m ≠ .resetLoadFailure →
    s.redrawPending = true → t.redrawPending = true)

/-- 70_reset_and_hazards.md R220, R213: the host's key moves write `keys`, to any value or to 0, and nothing else. -/
def Obligations.HostKeyWritesTouchOnlyKeys : Prop :=
  ∀ (s : State) (ks : Keys),
    (∃ t, hostMove (.keysIn ks) s = .next t ∧ t.keys = ks ∧ SameBut [.keys] s t) ∧
    ∃ t, hostMove .keysClearAll s = .next t ∧ t.keys = 0#16 ∧ SameBut [.keys] s t
end

