-- ==== Sys2Proof/Laws/Decode.lean ====
section
/-! SUPPORT. The fields of a word written as a concatenation of its fields, and the two bytes of a word. -/

namespace Sys2Proof

/-- Format XNN: op, X and NN of a word. -/
theorem fields_xnn (o x : BitVec 4) (nn : Byte) :
    (fields (o ++ x ++ nn)).op = o ∧ (fields (o ++ x ++ nn)).x = x ∧ (fields (o ++ x ++ nn)).nn = nn := by
  refine ⟨?_, ?_, ?_⟩ <;>
    (apply BitVec.eq_of_getLsbD_eq; intro k hk; simp only [fields, BitVec.getLsbD_extractLsb', BitVec.getLsbD_append])
  · have h1 : ¬ 12 + k < 8 := by omega
    have h2 : ¬ 12 + k - 8 < 4 := by omega
    simp only [h1, h2, if_false, show 12 + k - 8 - 4 = k by omega, hk, decide_true, Bool.true_and]
  · simp [hk]
  · simp [hk]

/-- Format XYN: op, X, Y and N of a word. -/
theorem fields_xyn (o x y n : BitVec 4) :
    (fields (o ++ x ++ y ++ n)).op = o ∧ (fields (o ++ x ++ y ++ n)).x = x ∧
    (fields (o ++ x ++ y ++ n)).y = y ∧ (fields (o ++ x ++ y ++ n)).n = n := by
  refine ⟨?_, ?_, ?_, ?_⟩ <;>
    (apply BitVec.eq_of_getLsbD_eq; intro k hk; simp only [fields, BitVec.getLsbD_extractLsb', BitVec.getLsbD_append])
  · have h1 : ¬ 12 + k < 4 := by omega
    have h2 : ¬ 12 + k - 4 < 4 := by omega
    have h3 : ¬ 12 + k - 4 - 4 < 4 := by omega
    simp only [h1, h2, h3, if_false, show 12 + k - 4 - 4 - 4 = k by omega, hk, decide_true, Bool.true_and]
  · have h1 : ¬ 8 + k < 4 := by omega
    have h2 : ¬ 8 + k - 4 < 4 := by omega
    simp [hk, h1, h2, show 8 + k - 4 - 4 = k by omega]
  · simp [hk]
  · simp [hk]

/-- Format NNN: op and NNN of a word. -/
theorem fields_nnn (o : BitVec 4) (nnn : Addr) : (fields (o ++ nnn)).op = o ∧ (fields (o ++ nnn)).nnn = nnn := by
  refine ⟨?_, ?_⟩ <;>
    (apply BitVec.eq_of_getLsbD_eq; intro k hk; simp only [fields, BitVec.getLsbD_extractLsb', BitVec.getLsbD_append])
  · simp [hk]
  · simp [hk]

theorem and_append {m n : Nat} (a b : BitVec m) (c d : BitVec n) :
    (a ++ c) &&& (b ++ d) = (a &&& b) ++ (c &&& d) := by
  apply BitVec.eq_of_getLsbD_eq
  intro k hk
  simp only [BitVec.getLsbD_and, BitVec.getLsbD_append]
  split <;> rfl

theorem and_nibble (a : BitVec 4) : a &&& 0xF#4 = a := BitVec.and_allOnes

theorem and_byte (a : Byte) : a &&& 0xFF#8 = a := BitVec.and_allOnes

/-- The mask 0xF000 keeps the op nibble of a word of format NNN. -/
theorem mask_nnn (o : BitVec 4) (nnn : Addr) : (o ++ nnn : Word) &&& 0xF000#16 = o ++ 0x000#12 := by
  rw [show (0xF000#16 : Word) = 0xF#4 ++ 0x000#12 by rfl, and_append, and_nibble, BitVec.and_zero]

/-- The mask 0xF000 keeps the op nibble of a word of format XNN. -/
theorem mask_xnn (o x : BitVec 4) (nn : Byte) : (o ++ x ++ nn : Word) &&& 0xF000#16 = o ++ 0x0#4 ++ 0x00#8 := by
  rw [show (0xF000#16 : Word) = 0xF#4 ++ 0x0#4 ++ 0x00#8 by rfl, and_append, and_append, and_nibble,
    BitVec.and_zero, BitVec.and_zero]

/-- The mask 0xF0FF keeps the op nibble and the low byte of a word of format Xnn. -/
theorem mask_xfixed (o x : BitVec 4) (nn : Byte) : (o ++ x ++ nn : Word) &&& 0xF0FF#16 = o ++ 0x0#4 ++ nn := by
  rw [show (0xF0FF#16 : Word) = 0xF#4 ++ 0x0#4 ++ 0xFF#8 by rfl, and_append, and_append, and_nibble,
    BitVec.and_zero, and_byte]

/-- The mask 0xF00F keeps the op nibble and the low nibble of a word of format XYn. -/
theorem mask_xyfixed (o x y n : BitVec 4) :
    (o ++ x ++ y ++ n : Word) &&& 0xF00F#16 = o ++ 0x0#4 ++ 0x0#4 ++ n := by
  rw [show (0xF00F#16 : Word) = 0xF#4 ++ 0x0#4 ++ 0x0#4 ++ 0xF#4 by rfl, and_append, and_append, and_append, and_nibble,
    BitVec.and_zero, BitVec.and_zero, and_nibble]

/-- The mask 0xF000 keeps the op nibble of a word of format XYN. -/
theorem mask_xyn (o x y n : BitVec 4) :
    (o ++ x ++ y ++ n : Word) &&& 0xF000#16 = o ++ 0x0#4 ++ 0x0#4 ++ 0x0#4 := by
  rw [show (0xF000#16 : Word) = 0xF#4 ++ 0x0#4 ++ 0x0#4 ++ 0x0#4 by rfl, and_append, and_append, and_append, and_nibble,
    BitVec.and_zero, BitVec.and_zero, BitVec.and_zero]

/-- The two bytes of a word, put together again. -/
theorem wordOfBytes_bytes (w : Word) : wordOfBytes (highByte w) (lowByte w) = w := by
  apply BitVec.eq_of_getLsbD_eq
  intro k hk
  simp only [wordOfBytes, highByte, lowByte, BitVec.getLsbD_append, BitVec.getLsbD_extractLsb']
  by_cases h : k < 8
  · simp [h]
  · simp [h, show k - 8 < 8 by omega, show 8 + (k - 8) = k by omega]

/-- Big-endian as arithmetic: high * 256 + low (20_memory.md R55). -/
theorem wordOfBytes_toNat (hi lo : Byte) : (wordOfBytes hi lo).toNat = hi.toNat * 256 + lo.toNat := by
  have h := lo.isLt
  rw [wordOfBytes, BitVec.toNat_append, Nat.shiftLeft_eq, Nat.mul_comm, ← Nat.two_pow_add_eq_or_of_lt h, Nat.mul_comm]

end Sys2Proof
end

