-- ==== Sys2Proof/Laws/State.lean ====
section
/-! SUPPORT. One lemma per field per update of State, each true by unfolding, so that no later proof unfolds an update. -/

namespace Sys2Proof.Machine

/-! `State.writeByte` -/

@[simp] theorem State.writeByte_v (s : State) (a : Nat) (b : Byte) : (s.writeByte a b).v = s.v := rfl
@[simp] theorem State.writeByte_i (s : State) (a : Nat) (b : Byte) : (s.writeByte a b).i = s.i := rfl
@[simp] theorem State.writeByte_pc (s : State) (a : Nat) (b : Byte) : (s.writeByte a b).pc = s.pc := rfl
@[simp] theorem State.writeByte_stack (s : State) (a : Nat) (b : Byte) : (s.writeByte a b).stack = s.stack := rfl
@[simp] theorem State.writeByte_sp (s : State) (a : Nat) (b : Byte) : (s.writeByte a b).sp = s.sp := rfl
@[simp] theorem State.writeByte_dt (s : State) (a : Nat) (b : Byte) : (s.writeByte a b).dt = s.dt := rfl
@[simp] theorem State.writeByte_st (s : State) (a : Nat) (b : Byte) : (s.writeByte a b).st = s.st := rfl
@[simp] theorem State.writeByte_keys (s : State) (a : Nat) (b : Byte) : (s.writeByte a b).keys = s.keys := rfl
@[simp] theorem State.writeByte_fb (s : State) (a : Nat) (b : Byte) : (s.writeByte a b).fb = s.fb := rfl
@[simp] theorem State.writeByte_redrawPending (s : State) (a : Nat) (b : Byte) : (s.writeByte a b).redrawPending = s.redrawPending := rfl
@[simp] theorem State.writeByte_mode (s : State) (a : Nat) (b : Byte) : (s.writeByte a b).mode = s.mode := rfl
@[simp] theorem State.writeByte_fault (s : State) (a : Nat) (b : Byte) : (s.writeByte a b).fault = s.fault := rfl
@[simp] theorem State.writeByte_mem (s : State) (a : Nat) (b : Byte) : (s.writeByte a b).mem = Memory.write s.font s.mem a b := rfl
@[simp] theorem State.writeByte_font (s : State) (a : Nat) (b : Byte) : (s.writeByte a b).font = s.font := rfl
@[simp] theorem State.writeByte_draws (s : State) (a : Nat) (b : Byte) : (s.writeByte a b).draws = s.draws := rfl
@[simp] theorem State.writeByte_event (s : State) (a : Nat) (b : Byte) : (s.writeByte a b).event = s.event := rfl

/-! `State.setV` -/

@[simp] theorem State.setV_v (s : State) (x : RegIdx) (b : Byte) : (s.setV x b).v = s.v.set x.toNat b x.isLt := rfl
@[simp] theorem State.setV_i (s : State) (x : RegIdx) (b : Byte) : (s.setV x b).i = s.i := rfl
@[simp] theorem State.setV_pc (s : State) (x : RegIdx) (b : Byte) : (s.setV x b).pc = s.pc := rfl
@[simp] theorem State.setV_stack (s : State) (x : RegIdx) (b : Byte) : (s.setV x b).stack = s.stack := rfl
@[simp] theorem State.setV_sp (s : State) (x : RegIdx) (b : Byte) : (s.setV x b).sp = s.sp := rfl
@[simp] theorem State.setV_dt (s : State) (x : RegIdx) (b : Byte) : (s.setV x b).dt = s.dt := rfl
@[simp] theorem State.setV_st (s : State) (x : RegIdx) (b : Byte) : (s.setV x b).st = s.st := rfl
@[simp] theorem State.setV_keys (s : State) (x : RegIdx) (b : Byte) : (s.setV x b).keys = s.keys := rfl
@[simp] theorem State.setV_fb (s : State) (x : RegIdx) (b : Byte) : (s.setV x b).fb = s.fb := rfl
@[simp] theorem State.setV_redrawPending (s : State) (x : RegIdx) (b : Byte) : (s.setV x b).redrawPending = s.redrawPending := rfl
@[simp] theorem State.setV_mode (s : State) (x : RegIdx) (b : Byte) : (s.setV x b).mode = s.mode := rfl
@[simp] theorem State.setV_fault (s : State) (x : RegIdx) (b : Byte) : (s.setV x b).fault = s.fault := rfl
@[simp] theorem State.setV_mem (s : State) (x : RegIdx) (b : Byte) : (s.setV x b).mem = s.mem := rfl
@[simp] theorem State.setV_font (s : State) (x : RegIdx) (b : Byte) : (s.setV x b).font = s.font := rfl
@[simp] theorem State.setV_draws (s : State) (x : RegIdx) (b : Byte) : (s.setV x b).draws = s.draws := rfl
@[simp] theorem State.setV_event (s : State) (x : RegIdx) (b : Byte) : (s.setV x b).event = s.event := rfl

/-! `State.setVs` -/

@[simp] theorem State.setVs_v (s : State) (bs : List Byte) : (s.setVs bs).v = Vector.ofFn fun k : Fin 16 => bs.getD k.val s.v[k] := rfl
@[simp] theorem State.setVs_i (s : State) (bs : List Byte) : (s.setVs bs).i = s.i := rfl
@[simp] theorem State.setVs_pc (s : State) (bs : List Byte) : (s.setVs bs).pc = s.pc := rfl
@[simp] theorem State.setVs_stack (s : State) (bs : List Byte) : (s.setVs bs).stack = s.stack := rfl
@[simp] theorem State.setVs_sp (s : State) (bs : List Byte) : (s.setVs bs).sp = s.sp := rfl
@[simp] theorem State.setVs_dt (s : State) (bs : List Byte) : (s.setVs bs).dt = s.dt := rfl
@[simp] theorem State.setVs_st (s : State) (bs : List Byte) : (s.setVs bs).st = s.st := rfl
@[simp] theorem State.setVs_keys (s : State) (bs : List Byte) : (s.setVs bs).keys = s.keys := rfl
@[simp] theorem State.setVs_fb (s : State) (bs : List Byte) : (s.setVs bs).fb = s.fb := rfl
@[simp] theorem State.setVs_redrawPending (s : State) (bs : List Byte) : (s.setVs bs).redrawPending = s.redrawPending := rfl
@[simp] theorem State.setVs_mode (s : State) (bs : List Byte) : (s.setVs bs).mode = s.mode := rfl
@[simp] theorem State.setVs_fault (s : State) (bs : List Byte) : (s.setVs bs).fault = s.fault := rfl
@[simp] theorem State.setVs_mem (s : State) (bs : List Byte) : (s.setVs bs).mem = s.mem := rfl
@[simp] theorem State.setVs_font (s : State) (bs : List Byte) : (s.setVs bs).font = s.font := rfl
@[simp] theorem State.setVs_draws (s : State) (bs : List Byte) : (s.setVs bs).draws = s.draws := rfl
@[simp] theorem State.setVs_event (s : State) (bs : List Byte) : (s.setVs bs).event = s.event := rfl

/-! `State.setI` -/

@[simp] theorem State.setI_v (s : State) (a : Word) : (s.setI a).v = s.v := rfl
@[simp] theorem State.setI_i (s : State) (a : Word) : (s.setI a).i = a := rfl
@[simp] theorem State.setI_pc (s : State) (a : Word) : (s.setI a).pc = s.pc := rfl
@[simp] theorem State.setI_stack (s : State) (a : Word) : (s.setI a).stack = s.stack := rfl
@[simp] theorem State.setI_sp (s : State) (a : Word) : (s.setI a).sp = s.sp := rfl
@[simp] theorem State.setI_dt (s : State) (a : Word) : (s.setI a).dt = s.dt := rfl
@[simp] theorem State.setI_st (s : State) (a : Word) : (s.setI a).st = s.st := rfl
@[simp] theorem State.setI_keys (s : State) (a : Word) : (s.setI a).keys = s.keys := rfl
@[simp] theorem State.setI_fb (s : State) (a : Word) : (s.setI a).fb = s.fb := rfl
@[simp] theorem State.setI_redrawPending (s : State) (a : Word) : (s.setI a).redrawPending = s.redrawPending := rfl
@[simp] theorem State.setI_mode (s : State) (a : Word) : (s.setI a).mode = s.mode := rfl
@[simp] theorem State.setI_fault (s : State) (a : Word) : (s.setI a).fault = s.fault := rfl
@[simp] theorem State.setI_mem (s : State) (a : Word) : (s.setI a).mem = s.mem := rfl
@[simp] theorem State.setI_font (s : State) (a : Word) : (s.setI a).font = s.font := rfl
@[simp] theorem State.setI_draws (s : State) (a : Word) : (s.setI a).draws = s.draws := rfl
@[simp] theorem State.setI_event (s : State) (a : Word) : (s.setI a).event = s.event := rfl

/-! `State.setPc` -/

@[simp] theorem State.setPc_v (s : State) (a : Word) : (s.setPc a).v = s.v := rfl
@[simp] theorem State.setPc_i (s : State) (a : Word) : (s.setPc a).i = s.i := rfl
@[simp] theorem State.setPc_pc (s : State) (a : Word) : (s.setPc a).pc = a := rfl
@[simp] theorem State.setPc_stack (s : State) (a : Word) : (s.setPc a).stack = s.stack := rfl
@[simp] theorem State.setPc_sp (s : State) (a : Word) : (s.setPc a).sp = s.sp := rfl
@[simp] theorem State.setPc_dt (s : State) (a : Word) : (s.setPc a).dt = s.dt := rfl
@[simp] theorem State.setPc_st (s : State) (a : Word) : (s.setPc a).st = s.st := rfl
@[simp] theorem State.setPc_keys (s : State) (a : Word) : (s.setPc a).keys = s.keys := rfl
@[simp] theorem State.setPc_fb (s : State) (a : Word) : (s.setPc a).fb = s.fb := rfl
@[simp] theorem State.setPc_redrawPending (s : State) (a : Word) : (s.setPc a).redrawPending = s.redrawPending := rfl
@[simp] theorem State.setPc_mode (s : State) (a : Word) : (s.setPc a).mode = s.mode := rfl
@[simp] theorem State.setPc_fault (s : State) (a : Word) : (s.setPc a).fault = s.fault := rfl
@[simp] theorem State.setPc_mem (s : State) (a : Word) : (s.setPc a).mem = s.mem := rfl
@[simp] theorem State.setPc_font (s : State) (a : Word) : (s.setPc a).font = s.font := rfl
@[simp] theorem State.setPc_draws (s : State) (a : Word) : (s.setPc a).draws = s.draws := rfl
@[simp] theorem State.setPc_event (s : State) (a : Word) : (s.setPc a).event = s.event := rfl

/-! `State.setDt` -/

@[simp] theorem State.setDt_v (s : State) (b : Byte) : (s.setDt b).v = s.v := rfl
@[simp] theorem State.setDt_i (s : State) (b : Byte) : (s.setDt b).i = s.i := rfl
@[simp] theorem State.setDt_pc (s : State) (b : Byte) : (s.setDt b).pc = s.pc := rfl
@[simp] theorem State.setDt_stack (s : State) (b : Byte) : (s.setDt b).stack = s.stack := rfl
@[simp] theorem State.setDt_sp (s : State) (b : Byte) : (s.setDt b).sp = s.sp := rfl
@[simp] theorem State.setDt_dt (s : State) (b : Byte) : (s.setDt b).dt = b := rfl
@[simp] theorem State.setDt_st (s : State) (b : Byte) : (s.setDt b).st = s.st := rfl
@[simp] theorem State.setDt_keys (s : State) (b : Byte) : (s.setDt b).keys = s.keys := rfl
@[simp] theorem State.setDt_fb (s : State) (b : Byte) : (s.setDt b).fb = s.fb := rfl
@[simp] theorem State.setDt_redrawPending (s : State) (b : Byte) : (s.setDt b).redrawPending = s.redrawPending := rfl
@[simp] theorem State.setDt_mode (s : State) (b : Byte) : (s.setDt b).mode = s.mode := rfl
@[simp] theorem State.setDt_fault (s : State) (b : Byte) : (s.setDt b).fault = s.fault := rfl
@[simp] theorem State.setDt_mem (s : State) (b : Byte) : (s.setDt b).mem = s.mem := rfl
@[simp] theorem State.setDt_font (s : State) (b : Byte) : (s.setDt b).font = s.font := rfl
@[simp] theorem State.setDt_draws (s : State) (b : Byte) : (s.setDt b).draws = s.draws := rfl
@[simp] theorem State.setDt_event (s : State) (b : Byte) : (s.setDt b).event = s.event := rfl

/-! `State.setSt` -/

@[simp] theorem State.setSt_v (s : State) (b : Byte) : (s.setSt b).v = s.v := rfl
@[simp] theorem State.setSt_i (s : State) (b : Byte) : (s.setSt b).i = s.i := rfl
@[simp] theorem State.setSt_pc (s : State) (b : Byte) : (s.setSt b).pc = s.pc := rfl
@[simp] theorem State.setSt_stack (s : State) (b : Byte) : (s.setSt b).stack = s.stack := rfl
@[simp] theorem State.setSt_sp (s : State) (b : Byte) : (s.setSt b).sp = s.sp := rfl
@[simp] theorem State.setSt_dt (s : State) (b : Byte) : (s.setSt b).dt = s.dt := rfl
@[simp] theorem State.setSt_st (s : State) (b : Byte) : (s.setSt b).st = b := rfl
@[simp] theorem State.setSt_keys (s : State) (b : Byte) : (s.setSt b).keys = s.keys := rfl
@[simp] theorem State.setSt_fb (s : State) (b : Byte) : (s.setSt b).fb = s.fb := rfl
@[simp] theorem State.setSt_redrawPending (s : State) (b : Byte) : (s.setSt b).redrawPending = s.redrawPending := rfl
@[simp] theorem State.setSt_mode (s : State) (b : Byte) : (s.setSt b).mode = s.mode := rfl
@[simp] theorem State.setSt_fault (s : State) (b : Byte) : (s.setSt b).fault = s.fault := rfl
@[simp] theorem State.setSt_mem (s : State) (b : Byte) : (s.setSt b).mem = s.mem := rfl
@[simp] theorem State.setSt_font (s : State) (b : Byte) : (s.setSt b).font = s.font := rfl
@[simp] theorem State.setSt_draws (s : State) (b : Byte) : (s.setSt b).draws = s.draws := rfl
@[simp] theorem State.setSt_event (s : State) (b : Byte) : (s.setSt b).event = s.event := rfl

/-! `State.setMode` -/

@[simp] theorem State.setMode_v (s : State) (m : Mode) : (s.setMode m).v = s.v := rfl
@[simp] theorem State.setMode_i (s : State) (m : Mode) : (s.setMode m).i = s.i := rfl
@[simp] theorem State.setMode_pc (s : State) (m : Mode) : (s.setMode m).pc = s.pc := rfl
@[simp] theorem State.setMode_stack (s : State) (m : Mode) : (s.setMode m).stack = s.stack := rfl
@[simp] theorem State.setMode_sp (s : State) (m : Mode) : (s.setMode m).sp = s.sp := rfl
@[simp] theorem State.setMode_dt (s : State) (m : Mode) : (s.setMode m).dt = s.dt := rfl
@[simp] theorem State.setMode_st (s : State) (m : Mode) : (s.setMode m).st = s.st := rfl
@[simp] theorem State.setMode_keys (s : State) (m : Mode) : (s.setMode m).keys = s.keys := rfl
@[simp] theorem State.setMode_fb (s : State) (m : Mode) : (s.setMode m).fb = s.fb := rfl
@[simp] theorem State.setMode_redrawPending (s : State) (m : Mode) : (s.setMode m).redrawPending = s.redrawPending := rfl
@[simp] theorem State.setMode_mode (s : State) (m : Mode) : (s.setMode m).mode = m := rfl
@[simp] theorem State.setMode_fault (s : State) (m : Mode) : (s.setMode m).fault = s.fault := rfl
@[simp] theorem State.setMode_mem (s : State) (m : Mode) : (s.setMode m).mem = s.mem := rfl
@[simp] theorem State.setMode_font (s : State) (m : Mode) : (s.setMode m).font = s.font := rfl
@[simp] theorem State.setMode_draws (s : State) (m : Mode) : (s.setMode m).draws = s.draws := rfl
@[simp] theorem State.setMode_event (s : State) (m : Mode) : (s.setMode m).event = s.event := rfl

/-! `State.setFb` -/

@[simp] theorem State.setFb_v (s : State) (f : Frame) : (s.setFb f).v = s.v := rfl
@[simp] theorem State.setFb_i (s : State) (f : Frame) : (s.setFb f).i = s.i := rfl
@[simp] theorem State.setFb_pc (s : State) (f : Frame) : (s.setFb f).pc = s.pc := rfl
@[simp] theorem State.setFb_stack (s : State) (f : Frame) : (s.setFb f).stack = s.stack := rfl
@[simp] theorem State.setFb_sp (s : State) (f : Frame) : (s.setFb f).sp = s.sp := rfl
@[simp] theorem State.setFb_dt (s : State) (f : Frame) : (s.setFb f).dt = s.dt := rfl
@[simp] theorem State.setFb_st (s : State) (f : Frame) : (s.setFb f).st = s.st := rfl
@[simp] theorem State.setFb_keys (s : State) (f : Frame) : (s.setFb f).keys = s.keys := rfl
@[simp] theorem State.setFb_fb (s : State) (f : Frame) : (s.setFb f).fb = f := rfl
@[simp] theorem State.setFb_redrawPending (s : State) (f : Frame) : (s.setFb f).redrawPending = true := rfl
@[simp] theorem State.setFb_mode (s : State) (f : Frame) : (s.setFb f).mode = s.mode := rfl
@[simp] theorem State.setFb_fault (s : State) (f : Frame) : (s.setFb f).fault = s.fault := rfl
@[simp] theorem State.setFb_mem (s : State) (f : Frame) : (s.setFb f).mem = s.mem := rfl
@[simp] theorem State.setFb_font (s : State) (f : Frame) : (s.setFb f).font = s.font := rfl
@[simp] theorem State.setFb_draws (s : State) (f : Frame) : (s.setFb f).draws = s.draws := rfl
@[simp] theorem State.setFb_event (s : State) (f : Frame) : (s.setFb f).event = s.event := rfl

/-! `State.tookDraw` -/

@[simp] theorem State.tookDraw_v (s : State) : (s.tookDraw).v = s.v := rfl
@[simp] theorem State.tookDraw_i (s : State) : (s.tookDraw).i = s.i := rfl
@[simp] theorem State.tookDraw_pc (s : State) : (s.tookDraw).pc = s.pc := rfl
@[simp] theorem State.tookDraw_stack (s : State) : (s.tookDraw).stack = s.stack := rfl
@[simp] theorem State.tookDraw_sp (s : State) : (s.tookDraw).sp = s.sp := rfl
@[simp] theorem State.tookDraw_dt (s : State) : (s.tookDraw).dt = s.dt := rfl
@[simp] theorem State.tookDraw_st (s : State) : (s.tookDraw).st = s.st := rfl
@[simp] theorem State.tookDraw_keys (s : State) : (s.tookDraw).keys = s.keys := rfl
@[simp] theorem State.tookDraw_fb (s : State) : (s.tookDraw).fb = s.fb := rfl
@[simp] theorem State.tookDraw_redrawPending (s : State) : (s.tookDraw).redrawPending = s.redrawPending := rfl
@[simp] theorem State.tookDraw_mode (s : State) : (s.tookDraw).mode = s.mode := rfl
@[simp] theorem State.tookDraw_fault (s : State) : (s.tookDraw).fault = s.fault := rfl
@[simp] theorem State.tookDraw_mem (s : State) : (s.tookDraw).mem = s.mem := rfl
@[simp] theorem State.tookDraw_font (s : State) : (s.tookDraw).font = s.font := rfl
@[simp] theorem State.tookDraw_draws (s : State) : (s.tookDraw).draws = s.draws + 1 := rfl
@[simp] theorem State.tookDraw_event (s : State) : (s.tookDraw).event = s.event := rfl

/-! `State.pushed` -/

@[simp] theorem State.pushed_v (s : State) (w : Word) (h : s.sp.val < 16) : (s.pushed w h).v = s.v := rfl
@[simp] theorem State.pushed_i (s : State) (w : Word) (h : s.sp.val < 16) : (s.pushed w h).i = s.i := rfl
@[simp] theorem State.pushed_pc (s : State) (w : Word) (h : s.sp.val < 16) : (s.pushed w h).pc = s.pc := rfl
@[simp] theorem State.pushed_stack (s : State) (w : Word) (h : s.sp.val < 16) : (s.pushed w h).stack = s.stack.set s.sp.val w h := rfl
@[simp] theorem State.pushed_dt (s : State) (w : Word) (h : s.sp.val < 16) : (s.pushed w h).dt = s.dt := rfl
@[simp] theorem State.pushed_st (s : State) (w : Word) (h : s.sp.val < 16) : (s.pushed w h).st = s.st := rfl
@[simp] theorem State.pushed_keys (s : State) (w : Word) (h : s.sp.val < 16) : (s.pushed w h).keys = s.keys := rfl
@[simp] theorem State.pushed_fb (s : State) (w : Word) (h : s.sp.val < 16) : (s.pushed w h).fb = s.fb := rfl
@[simp] theorem State.pushed_redrawPending (s : State) (w : Word) (h : s.sp.val < 16) : (s.pushed w h).redrawPending = s.redrawPending := rfl
@[simp] theorem State.pushed_mode (s : State) (w : Word) (h : s.sp.val < 16) : (s.pushed w h).mode = s.mode := rfl
@[simp] theorem State.pushed_fault (s : State) (w : Word) (h : s.sp.val < 16) : (s.pushed w h).fault = s.fault := rfl
@[simp] theorem State.pushed_mem (s : State) (w : Word) (h : s.sp.val < 16) : (s.pushed w h).mem = s.mem := rfl
@[simp] theorem State.pushed_font (s : State) (w : Word) (h : s.sp.val < 16) : (s.pushed w h).font = s.font := rfl
@[simp] theorem State.pushed_draws (s : State) (w : Word) (h : s.sp.val < 16) : (s.pushed w h).draws = s.draws := rfl
@[simp] theorem State.pushed_event (s : State) (w : Word) (h : s.sp.val < 16) : (s.pushed w h).event = s.event := rfl

/-! `State.popped` -/

@[simp] theorem State.popped_v (s : State) : (s.popped).v = s.v := rfl
@[simp] theorem State.popped_i (s : State) : (s.popped).i = s.i := rfl
@[simp] theorem State.popped_pc (s : State) : (s.popped).pc = s.pc := rfl
@[simp] theorem State.popped_stack (s : State) : (s.popped).stack = s.stack := rfl
@[simp] theorem State.popped_dt (s : State) : (s.popped).dt = s.dt := rfl
@[simp] theorem State.popped_st (s : State) : (s.popped).st = s.st := rfl
@[simp] theorem State.popped_keys (s : State) : (s.popped).keys = s.keys := rfl
@[simp] theorem State.popped_fb (s : State) : (s.popped).fb = s.fb := rfl
@[simp] theorem State.popped_redrawPending (s : State) : (s.popped).redrawPending = s.redrawPending := rfl
@[simp] theorem State.popped_mode (s : State) : (s.popped).mode = s.mode := rfl
@[simp] theorem State.popped_fault (s : State) : (s.popped).fault = s.fault := rfl
@[simp] theorem State.popped_mem (s : State) : (s.popped).mem = s.mem := rfl
@[simp] theorem State.popped_font (s : State) : (s.popped).font = s.font := rfl
@[simp] theorem State.popped_draws (s : State) : (s.popped).draws = s.draws := rfl
@[simp] theorem State.popped_event (s : State) : (s.popped).event = s.event := rfl

/-! `State.beginCycle` -/

@[simp] theorem State.beginCycle_v (s : State) : (s.beginCycle).v = s.v := rfl
@[simp] theorem State.beginCycle_i (s : State) : (s.beginCycle).i = s.i := rfl
@[simp] theorem State.beginCycle_pc (s : State) : (s.beginCycle).pc = s.pc := rfl
@[simp] theorem State.beginCycle_stack (s : State) : (s.beginCycle).stack = s.stack := rfl
@[simp] theorem State.beginCycle_sp (s : State) : (s.beginCycle).sp = s.sp := rfl
@[simp] theorem State.beginCycle_dt (s : State) : (s.beginCycle).dt = s.dt := rfl
@[simp] theorem State.beginCycle_st (s : State) : (s.beginCycle).st = s.st := rfl
@[simp] theorem State.beginCycle_keys (s : State) : (s.beginCycle).keys = s.keys := rfl
@[simp] theorem State.beginCycle_fb (s : State) : (s.beginCycle).fb = s.fb := rfl
@[simp] theorem State.beginCycle_redrawPending (s : State) : (s.beginCycle).redrawPending = s.redrawPending := rfl
@[simp] theorem State.beginCycle_mode (s : State) : (s.beginCycle).mode = s.mode := rfl
@[simp] theorem State.beginCycle_fault (s : State) : (s.beginCycle).fault = s.fault := rfl
@[simp] theorem State.beginCycle_mem (s : State) : (s.beginCycle).mem = s.mem := rfl
@[simp] theorem State.beginCycle_font (s : State) : (s.beginCycle).font = s.font := rfl
@[simp] theorem State.beginCycle_draws (s : State) : (s.beginCycle).draws = s.draws := rfl
@[simp] theorem State.beginCycle_event (s : State) : (s.beginCycle).event = none := rfl

/-! `State.setKeys` -/

@[simp] theorem State.setKeys_v (s : State) (ks : Keys) : (s.setKeys ks).v = s.v := rfl
@[simp] theorem State.setKeys_i (s : State) (ks : Keys) : (s.setKeys ks).i = s.i := rfl
@[simp] theorem State.setKeys_pc (s : State) (ks : Keys) : (s.setKeys ks).pc = s.pc := rfl
@[simp] theorem State.setKeys_stack (s : State) (ks : Keys) : (s.setKeys ks).stack = s.stack := rfl
@[simp] theorem State.setKeys_sp (s : State) (ks : Keys) : (s.setKeys ks).sp = s.sp := rfl
@[simp] theorem State.setKeys_dt (s : State) (ks : Keys) : (s.setKeys ks).dt = s.dt := rfl
@[simp] theorem State.setKeys_st (s : State) (ks : Keys) : (s.setKeys ks).st = s.st := rfl
@[simp] theorem State.setKeys_keys (s : State) (ks : Keys) : (s.setKeys ks).keys = ks := rfl
@[simp] theorem State.setKeys_fb (s : State) (ks : Keys) : (s.setKeys ks).fb = s.fb := rfl
@[simp] theorem State.setKeys_redrawPending (s : State) (ks : Keys) : (s.setKeys ks).redrawPending = s.redrawPending := rfl
@[simp] theorem State.setKeys_mode (s : State) (ks : Keys) : (s.setKeys ks).mode = s.mode := rfl
@[simp] theorem State.setKeys_fault (s : State) (ks : Keys) : (s.setKeys ks).fault = s.fault := rfl
@[simp] theorem State.setKeys_mem (s : State) (ks : Keys) : (s.setKeys ks).mem = s.mem := rfl
@[simp] theorem State.setKeys_font (s : State) (ks : Keys) : (s.setKeys ks).font = s.font := rfl
@[simp] theorem State.setKeys_draws (s : State) (ks : Keys) : (s.setKeys ks).draws = s.draws := rfl
@[simp] theorem State.setKeys_event (s : State) (ks : Keys) : (s.setKeys ks).event = s.event := rfl

/-! `State.clearKeys` -/

@[simp] theorem State.clearKeys_v (s : State) : (s.clearKeys).v = s.v := rfl
@[simp] theorem State.clearKeys_i (s : State) : (s.clearKeys).i = s.i := rfl
@[simp] theorem State.clearKeys_pc (s : State) : (s.clearKeys).pc = s.pc := rfl
@[simp] theorem State.clearKeys_stack (s : State) : (s.clearKeys).stack = s.stack := rfl
@[simp] theorem State.clearKeys_sp (s : State) : (s.clearKeys).sp = s.sp := rfl
@[simp] theorem State.clearKeys_dt (s : State) : (s.clearKeys).dt = s.dt := rfl
@[simp] theorem State.clearKeys_st (s : State) : (s.clearKeys).st = s.st := rfl
@[simp] theorem State.clearKeys_keys (s : State) : (s.clearKeys).keys = 0#16 := rfl
@[simp] theorem State.clearKeys_fb (s : State) : (s.clearKeys).fb = s.fb := rfl
@[simp] theorem State.clearKeys_redrawPending (s : State) : (s.clearKeys).redrawPending = s.redrawPending := rfl
@[simp] theorem State.clearKeys_mode (s : State) : (s.clearKeys).mode = s.mode := rfl
@[simp] theorem State.clearKeys_fault (s : State) : (s.clearKeys).fault = s.fault := rfl
@[simp] theorem State.clearKeys_mem (s : State) : (s.clearKeys).mem = s.mem := rfl
@[simp] theorem State.clearKeys_font (s : State) : (s.clearKeys).font = s.font := rfl
@[simp] theorem State.clearKeys_draws (s : State) : (s.clearKeys).draws = s.draws := rfl
@[simp] theorem State.clearKeys_event (s : State) : (s.clearKeys).event = s.event := rfl

/-! `State.redrawAck` -/

@[simp] theorem State.redrawAck_v (s : State) : (s.redrawAck).v = s.v := rfl
@[simp] theorem State.redrawAck_i (s : State) : (s.redrawAck).i = s.i := rfl
@[simp] theorem State.redrawAck_pc (s : State) : (s.redrawAck).pc = s.pc := rfl
@[simp] theorem State.redrawAck_stack (s : State) : (s.redrawAck).stack = s.stack := rfl
@[simp] theorem State.redrawAck_sp (s : State) : (s.redrawAck).sp = s.sp := rfl
@[simp] theorem State.redrawAck_dt (s : State) : (s.redrawAck).dt = s.dt := rfl
@[simp] theorem State.redrawAck_st (s : State) : (s.redrawAck).st = s.st := rfl
@[simp] theorem State.redrawAck_keys (s : State) : (s.redrawAck).keys = s.keys := rfl
@[simp] theorem State.redrawAck_fb (s : State) : (s.redrawAck).fb = s.fb := rfl
@[simp] theorem State.redrawAck_redrawPending (s : State) : (s.redrawAck).redrawPending = false := rfl
@[simp] theorem State.redrawAck_mode (s : State) : (s.redrawAck).mode = s.mode := rfl
@[simp] theorem State.redrawAck_fault (s : State) : (s.redrawAck).fault = s.fault := rfl
@[simp] theorem State.redrawAck_mem (s : State) : (s.redrawAck).mem = s.mem := rfl
@[simp] theorem State.redrawAck_font (s : State) : (s.redrawAck).font = s.font := rfl
@[simp] theorem State.redrawAck_draws (s : State) : (s.redrawAck).draws = s.draws := rfl
@[simp] theorem State.redrawAck_event (s : State) : (s.redrawAck).event = s.event := rfl

@[simp] theorem State.pushed_sp (s : State) (w : Word) (h : s.sp.val < 16) :
    (s.pushed w h).sp.val = s.sp.val + 1 := rfl

@[simp] theorem State.popped_sp (s : State) : s.popped.sp.val = s.sp.val - 1 := rfl

/-! `takeFatal` -/

@[simp] theorem takeFatal_v (k : FatalKind) (w : Option Word) (s : State) : (takeFatal k w s).v = s.v := rfl
@[simp] theorem takeFatal_i (k : FatalKind) (w : Option Word) (s : State) : (takeFatal k w s).i = s.i := rfl
@[simp] theorem takeFatal_pc (k : FatalKind) (w : Option Word) (s : State) : (takeFatal k w s).pc = s.pc := rfl
@[simp] theorem takeFatal_stack (k : FatalKind) (w : Option Word) (s : State) : (takeFatal k w s).stack = s.stack := rfl
@[simp] theorem takeFatal_sp (k : FatalKind) (w : Option Word) (s : State) : (takeFatal k w s).sp = s.sp := rfl
@[simp] theorem takeFatal_dt (k : FatalKind) (w : Option Word) (s : State) : (takeFatal k w s).dt = s.dt := rfl
@[simp] theorem takeFatal_st (k : FatalKind) (w : Option Word) (s : State) : (takeFatal k w s).st = s.st := rfl
@[simp] theorem takeFatal_keys (k : FatalKind) (w : Option Word) (s : State) : (takeFatal k w s).keys = s.keys := rfl
@[simp] theorem takeFatal_fb (k : FatalKind) (w : Option Word) (s : State) : (takeFatal k w s).fb = s.fb := rfl
@[simp] theorem takeFatal_redrawPending (k : FatalKind) (w : Option Word) (s : State) : (takeFatal k w s).redrawPending = s.redrawPending := rfl
@[simp] theorem takeFatal_mode (k : FatalKind) (w : Option Word) (s : State) : (takeFatal k w s).mode = .halted := rfl
@[simp] theorem takeFatal_fault (k : FatalKind) (w : Option Word) (s : State) : (takeFatal k w s).fault = some (cycleFault k w s) := rfl
@[simp] theorem takeFatal_mem (k : FatalKind) (w : Option Word) (s : State) : (takeFatal k w s).mem = s.mem := rfl
@[simp] theorem takeFatal_font (k : FatalKind) (w : Option Word) (s : State) : (takeFatal k w s).font = s.font := rfl
@[simp] theorem takeFatal_draws (k : FatalKind) (w : Option Word) (s : State) : (takeFatal k w s).draws = s.draws := rfl
@[simp] theorem takeFatal_event (k : FatalKind) (w : Option Word) (s : State) : (takeFatal k w s).event = some (.fatal (cycleFault k w s)) := rfl

/-! `timerTick` -/

@[simp] theorem timerTick_v (s : State) : (timerTick s).v = s.v := rfl
@[simp] theorem timerTick_i (s : State) : (timerTick s).i = s.i := rfl
@[simp] theorem timerTick_pc (s : State) : (timerTick s).pc = s.pc := rfl
@[simp] theorem timerTick_stack (s : State) : (timerTick s).stack = s.stack := rfl
@[simp] theorem timerTick_sp (s : State) : (timerTick s).sp = s.sp := rfl
@[simp] theorem timerTick_dt (s : State) : (timerTick s).dt = tickByte s.dt := rfl
@[simp] theorem timerTick_st (s : State) : (timerTick s).st = tickByte s.st := rfl
@[simp] theorem timerTick_keys (s : State) : (timerTick s).keys = s.keys := rfl
@[simp] theorem timerTick_fb (s : State) : (timerTick s).fb = s.fb := rfl
@[simp] theorem timerTick_redrawPending (s : State) : (timerTick s).redrawPending = s.redrawPending := rfl
@[simp] theorem timerTick_mode (s : State) : (timerTick s).mode = s.mode := rfl
@[simp] theorem timerTick_fault (s : State) : (timerTick s).fault = s.fault := rfl
@[simp] theorem timerTick_mem (s : State) : (timerTick s).mem = s.mem := rfl
@[simp] theorem timerTick_font (s : State) : (timerTick s).font = s.font := rfl
@[simp] theorem timerTick_draws (s : State) : (timerTick s).draws = s.draws := rfl
@[simp] theorem timerTick_event (s : State) : (timerTick s).event = if s.st = 1#8 then some .toneEnd else s.event := rfl

end Sys2Proof.Machine
end

