-- ==== Sys2Proof/Laws/Memory.lean ====
section
/-! SUPPORT. The laws of memory: read after write, the canonical form, the range of the listed addresses. -/

namespace Sys2Proof.Machine

/-! Listing and unlisting one byte -/

@[simp] theorem Memory.lookup_insert_self (a : Nat) (b : Byte) (m : List Host.Cell) :
    Memory.lookup a (Memory.insert a b m) = some b := by
  induction m with
  | nil => simp [Memory.insert, Memory.lookup]
  | cons c m ih =>
    simp only [Memory.insert]
    split
    · simp [Memory.lookup]
    · split
      · simp [Memory.lookup]
      · rename_i h
        simp [Memory.lookup, Ne.symm h, ih]

theorem Memory.lookup_insert_ne {a a' : Nat} (h : a' ≠ a) (b : Byte) (m : List Host.Cell) :
    Memory.lookup a' (Memory.insert a b m) = Memory.lookup a' m := by
  induction m with
  | nil => simp [Memory.insert, Memory.lookup, Ne.symm h]
  | cons c m ih =>
    simp only [Memory.insert]
    split
    · simp [Memory.lookup, Ne.symm h]
    · split
      · rename_i hc
        have : c.1 ≠ a' := by omega
        simp [Memory.lookup, Ne.symm h, this]
      · simp [Memory.lookup, ih]

@[simp] theorem Memory.lookup_erase_self (a : Nat) (m : List Host.Cell) :
    Memory.lookup a (Memory.erase a m) = none := by
  induction m with
  | nil => rfl
  | cons c m ih =>
    by_cases h : c.1 = a
    · simpa [Memory.erase, List.filter_cons, h] using ih
    · simpa [Memory.erase, List.filter_cons, h, Memory.lookup] using ih

theorem Memory.lookup_erase_ne {a a' : Nat} (h : a' ≠ a) (m : List Host.Cell) :
    Memory.lookup a' (Memory.erase a m) = Memory.lookup a' m := by
  induction m with
  | nil => rfl
  | cons c m ih =>
    by_cases hc : c.1 = a
    · have : c.1 ≠ a' := by omega
      simpa [Memory.erase, List.filter_cons, hc, Memory.lookup, Ne.symm h] using ih
    · simp only [Memory.erase, List.filter_cons, hc, ne_eq, not_false_eq_true, decide_true, if_true, Memory.lookup]
      exact ite_congr rfl (fun _ => rfl) (fun _ => ih)

/-! Read after write -/

@[simp] theorem Memory.read_write_self (font : Vector Byte 80) (m : List Host.Cell) (a : Nat) (b : Byte) :
    Memory.read font (Memory.write font m a b) a = b := by
  unfold Memory.write
  split
  · rename_i h
    simp [Memory.read, h]
  · simp [Memory.read]

theorem Memory.read_write_ne (font : Vector Byte 80) (m : List Host.Cell) {a a' : Nat} (h : a' ≠ a) (b : Byte) :
    Memory.read font (Memory.write font m a b) a' = Memory.read font m a' := by
  unfold Memory.write
  split
  · simp [Memory.read, Memory.lookup_erase_ne h]
  · simp [Memory.read, Memory.lookup_insert_ne h]

/-! The listed cells after a write -/

theorem Memory.mem_insert {a : Nat} {b : Byte} {m : List Host.Cell} {c : Host.Cell}
    (h : c ∈ Memory.insert a b m) : c = (a, b) ∨ c ∈ m := by
  induction m with
  | nil => simpa [Memory.insert] using h
  | cons d m ih =>
    simp only [Memory.insert] at h
    split at h
    · simpa using h
    · split at h
      · rcases List.mem_cons.1 h with h | h
        · exact .inl h
        · exact .inr (List.mem_cons_of_mem _ h)
      · rcases List.mem_cons.1 h with h | h
        · exact .inr (h ▸ List.mem_cons_self)
        · exact (ih h).imp id (List.mem_cons_of_mem _)

theorem Memory.mem_erase {a : Nat} {m : List Host.Cell} {c : Host.Cell} (h : c ∈ Memory.erase a m) : c ∈ m :=
  (List.mem_filter.1 h).1

theorem Memory.mem_write {font : Vector Byte 80} {a : Nat} {b : Byte} {m : List Host.Cell} {c : Host.Cell}
    (h : c ∈ Memory.write font m a b) : c = (a, b) ∧ b ≠ Memory.unlisted font a ∨ c ∈ m := by
  unfold Memory.write at h
  split at h
  · exact .inr (Memory.mem_erase h)
  · rename_i hb
    exact (Memory.mem_insert h).imp (fun e => ⟨e, hb⟩) id

/-! The canonical form -/

theorem Memory.insert_sorted {a : Nat} {b : Byte} {m : List Host.Cell} (h : m.Pairwise fun c d => c.1 < d.1) :
    (Memory.insert a b m).Pairwise fun c d => c.1 < d.1 := by
  induction m with
  | nil => simp [Memory.insert]
  | cons c m ih =>
    rw [List.pairwise_cons] at h
    simp only [Memory.insert]
    split
    · rename_i hac
      rw [List.pairwise_cons, List.pairwise_cons]
      refine ⟨fun d hd => ?_, h⟩
      rcases List.mem_cons.1 hd with rfl | hd
      · exact hac
      · exact Nat.lt_trans hac (h.1 d hd)
    · split
      · rename_i hac
        rw [List.pairwise_cons]
        exact ⟨fun d hd => by simpa [hac] using h.1 d hd, h.2⟩
      · rename_i hlt hne
        rw [List.pairwise_cons]
        refine ⟨fun d hd => ?_, ih h.2⟩
        rcases Memory.mem_insert hd with rfl | hd
        · show c.1 < a
          omega
        · exact h.1 d hd

/-- Writing a byte keeps the canonical form. -/
theorem Memory.write_wf {font : Vector Byte 80} {m : List Host.Cell} (h : Memory.wf font m) (a : Nat) (b : Byte) :
    Memory.wf font (Memory.write font m a b) := by
  refine ⟨?_, fun c hc => ?_⟩
  · unfold Memory.write
    split
    · exact h.1.filter _
    · exact Memory.insert_sorted h.1
  · rcases Memory.mem_write hc with ⟨rfl, hb⟩ | hc
    · exact hb
    · exact h.2 c hc

/-- Reset memory lists nothing, so it has the canonical form. -/
theorem reset_mem_wf : Memory.wf State.reset.font State.reset.mem := by
  constructor <;> simp [State.reset]

/-! Reading and writing bytes of a state -/

@[simp] theorem State.readByte_writeByte_self (s : State) (a : Nat) (b : Byte) : (s.writeByte a b).readByte a = b := by
  simp [State.readByte]

theorem State.readByte_writeByte_ne (s : State) {a a' : Nat} (h : a' ≠ a) (b : Byte) :
    (s.writeByte a b).readByte a' = s.readByte a' := by
  simp [State.readByte, Memory.read_write_ne _ _ h]

/-- What `writeBytes` can do: only `mem` changes, and it is a chain of `Memory.write`. -/
theorem State.writeBytes_eq (s : State) (a : Nat) (bs : List Byte) :
    ∃ m, s.writeBytes a bs = { s with mem := m } := by
  induction bs generalizing s a with
  | nil => exact ⟨s.mem, rfl⟩
  | cons b bs ih =>
    obtain ⟨m, hm⟩ := ih (s.writeByte a b) (a + 1)
    exact ⟨m, hm⟩

@[simp] theorem State.writeBytes_v (s : State) (a : Nat) (bs : List Byte) : (s.writeBytes a bs).v = s.v := by
  obtain ⟨m, hm⟩ := s.writeBytes_eq a bs; rw [hm]

@[simp] theorem State.writeBytes_i (s : State) (a : Nat) (bs : List Byte) : (s.writeBytes a bs).i = s.i := by
  obtain ⟨m, hm⟩ := s.writeBytes_eq a bs; rw [hm]

@[simp] theorem State.writeBytes_pc (s : State) (a : Nat) (bs : List Byte) : (s.writeBytes a bs).pc = s.pc := by
  obtain ⟨m, hm⟩ := s.writeBytes_eq a bs; rw [hm]

@[simp] theorem State.writeBytes_stack (s : State) (a : Nat) (bs : List Byte) : (s.writeBytes a bs).stack = s.stack := by
  obtain ⟨m, hm⟩ := s.writeBytes_eq a bs; rw [hm]

@[simp] theorem State.writeBytes_sp (s : State) (a : Nat) (bs : List Byte) : (s.writeBytes a bs).sp = s.sp := by
  obtain ⟨m, hm⟩ := s.writeBytes_eq a bs; rw [hm]

@[simp] theorem State.writeBytes_dt (s : State) (a : Nat) (bs : List Byte) : (s.writeBytes a bs).dt = s.dt := by
  obtain ⟨m, hm⟩ := s.writeBytes_eq a bs; rw [hm]

@[simp] theorem State.writeBytes_st (s : State) (a : Nat) (bs : List Byte) : (s.writeBytes a bs).st = s.st := by
  obtain ⟨m, hm⟩ := s.writeBytes_eq a bs; rw [hm]

@[simp] theorem State.writeBytes_keys (s : State) (a : Nat) (bs : List Byte) : (s.writeBytes a bs).keys = s.keys := by
  obtain ⟨m, hm⟩ := s.writeBytes_eq a bs; rw [hm]

@[simp] theorem State.writeBytes_fb (s : State) (a : Nat) (bs : List Byte) : (s.writeBytes a bs).fb = s.fb := by
  obtain ⟨m, hm⟩ := s.writeBytes_eq a bs; rw [hm]

@[simp] theorem State.writeBytes_redrawPending (s : State) (a : Nat) (bs : List Byte) : (s.writeBytes a bs).redrawPending = s.redrawPending := by
  obtain ⟨m, hm⟩ := s.writeBytes_eq a bs; rw [hm]

@[simp] theorem State.writeBytes_mode (s : State) (a : Nat) (bs : List Byte) : (s.writeBytes a bs).mode = s.mode := by
  obtain ⟨m, hm⟩ := s.writeBytes_eq a bs; rw [hm]

@[simp] theorem State.writeBytes_fault (s : State) (a : Nat) (bs : List Byte) : (s.writeBytes a bs).fault = s.fault := by
  obtain ⟨m, hm⟩ := s.writeBytes_eq a bs; rw [hm]

@[simp] theorem State.writeBytes_font (s : State) (a : Nat) (bs : List Byte) : (s.writeBytes a bs).font = s.font := by
  obtain ⟨m, hm⟩ := s.writeBytes_eq a bs; rw [hm]

@[simp] theorem State.writeBytes_draws (s : State) (a : Nat) (bs : List Byte) : (s.writeBytes a bs).draws = s.draws := by
  obtain ⟨m, hm⟩ := s.writeBytes_eq a bs; rw [hm]

@[simp] theorem State.writeBytes_event (s : State) (a : Nat) (bs : List Byte) : (s.writeBytes a bs).event = s.event := by
  obtain ⟨m, hm⟩ := s.writeBytes_eq a bs; rw [hm]

theorem State.readByte_writeBytes_out (s : State) (a : Nat) (bs : List Byte) {a' : Nat}
    (h : a' < a ∨ a + bs.length ≤ a') : (s.writeBytes a bs).readByte a' = s.readByte a' := by
  induction bs generalizing s a with
  | nil => rfl
  | cons b bs ih =>
    rw [List.length_cons] at h
    rw [State.writeBytes, ih (s.writeByte a b) (a + 1) (by omega), State.readByte_writeByte_ne _ (by omega)]

theorem State.readByte_writeBytes_in (s : State) (a : Nat) (bs : List Byte) {k : Nat} (h : k < bs.length) :
    (s.writeBytes a bs).readByte (a + k) = bs[k] := by
  induction bs generalizing s a k with
  | nil => simp at h
  | cons b bs ih =>
    rw [State.writeBytes]
    cases k with
    | zero => rw [State.readByte_writeBytes_out _ _ _ (by omega)]; simp
    | succ k =>
      rw [List.length_cons] at h
      have := ih (s.writeByte a b) (a + 1) (k := k) (by omega)
      rw [show a + (k + 1) = a + 1 + k by omega, this, List.getElem_cons_succ]

theorem State.writeBytes_wf {s : State} (h : Memory.wf s.font s.mem) (a : Nat) (bs : List Byte) :
    Memory.wf (s.writeBytes a bs).font (s.writeBytes a bs).mem := by
  induction bs generalizing s a with
  | nil => exact h
  | cons b bs ih => exact ih (s := s.writeByte a b) (Memory.write_wf h a b) (a + 1)

theorem State.writeBytes_range {s : State} {n : Nat} (h : ∀ c ∈ s.mem, c.1 ≤ n) {a : Nat} {bs : List Byte}
    (hn : a + bs.length ≤ n + 1) : ∀ c ∈ (s.writeBytes a bs).mem, c.1 ≤ n := by
  induction bs generalizing s a with
  | nil => exact h
  | cons b bs ih =>
    rw [List.length_cons] at hn
    refine ih (s := s.writeByte a b) (fun c hc => ?_) (a := a + 1) (by omega)
    rcases Memory.mem_write hc with ⟨rfl, _⟩ | hc
    · show a ≤ n
      omega
    · exact h c hc

@[simp] theorem State.readBytes_length (s : State) (a n : Nat) : (s.readBytes a n).length = n := by
  simp [State.readBytes]

theorem State.readBytes_getElem (s : State) (a n k : Nat) (h : k < (s.readBytes a n).length) :
    (s.readBytes a n)[k] = s.readByte (a + k) := by
  simp [State.readBytes]

end Sys2Proof.Machine
end

