-- ==== Sys2Proof/Laws/Ops.lean ====
section
/-! SUPPORT. What each shared operation can do, said once: registers, stack, PC writes, key wait, cycle stages. -/

namespace Sys2Proof.Machine

/-! Registers -/

@[simp] theorem State.getV_setV_self (s : State) (x : RegIdx) (b : Byte) : (s.setV x b).getV x = b := by
  simp [State.getV]

theorem State.getV_setV_ne (s : State) {x y : RegIdx} (h : y ≠ x) (b : Byte) : (s.setV x b).getV y = s.getV y := by
  have : x.toNat ≠ y.toNat := fun e => h (BitVec.eq_of_toNat_eq e.symm)
  simp [State.getV, this]

theorem State.getV_of_v_eq {s t : State} (h : t.v = s.v) (x : RegIdx) : t.getV x = s.getV x := by
  simp [State.getV, h]

theorem State.getV_setVs (s : State) (bs : List Byte) (y : RegIdx) :
    (s.setVs bs).getV y = bs.getD y.toNat (s.getV y) := by
  simp [State.getV]

theorem State.getVs_length (s : State) (x : RegIdx) : (s.getVs x).length = x.toNat + 1 := by
  have := x.isLt
  simp only [State.getVs, List.length_take, Vector.length_toList]
  omega

theorem State.getVs_getElem (s : State) (x : RegIdx) {k : Nat} (h : k < (s.getVs x).length) :
    (s.getVs x)[k] = s.getV (BitVec.ofNat 4 k) := by
  have hk : k < 16 := by
    have := x.isLt
    rw [State.getVs_length] at h
    omega
  simp [State.getVs, State.getV, Nat.mod_eq_of_lt hk]

/-! The updates that leave registers, stack entries and memory bytes as they read -/

@[simp] theorem State.getV_setPc (s : State) (a : Word) (x : RegIdx) : (s.setPc a).getV x = s.getV x := rfl
@[simp] theorem State.getV_setMode (s : State) (m : Mode) (x : RegIdx) : (s.setMode m).getV x = s.getV x := rfl
@[simp] theorem State.getV_tookDraw (s : State) (x : RegIdx) : s.tookDraw.getV x = s.getV x := rfl
@[simp] theorem State.getV_setFb (s : State) (f : Frame) (x : RegIdx) : (s.setFb f).getV x = s.getV x := rfl
@[simp] theorem State.getV_beginCycle (s : State) (x : RegIdx) : s.beginCycle.getV x = s.getV x := rfl
@[simp] theorem State.getV_timerTick (s : State) (x : RegIdx) : (timerTick s).getV x = s.getV x := rfl
@[simp] theorem State.stackAt_setPc (s : State) (a : Word) (k : Nat) : (s.setPc a).stackAt k = s.stackAt k := rfl
@[simp] theorem State.readByte_setPc (s : State) (a : Word) (b : Nat) : (s.setPc a).readByte b = s.readByte b := rfl
@[simp] theorem State.readByte_beginCycle (s : State) (b : Nat) : s.beginCycle.readByte b = s.readByte b := rfl
@[simp] theorem State.readByte_timerTick (s : State) (b : Nat) : (timerTick s).readByte b = s.readByte b := rfl

/-! The stack -/

theorem State.stackAt_of_stack_eq {s t : State} (h : t.stack = s.stack) (k : Nat) : t.stackAt k = s.stackAt k := by
  simp [State.stackAt, h]

theorem State.stackAt_pushed_self (s : State) (w : Word) (h : s.sp.val < 16) :
    (s.pushed w h).stackAt s.sp.val = w := by
  simp [State.stackAt, h]

theorem State.stackAt_pushed_ne (s : State) (w : Word) (h : s.sp.val < 16) {k : Nat} (hk : k ≠ s.sp.val) :
    (s.pushed w h).stackAt k = s.stackAt k := by
  simp [State.stackAt, Ne.symm hk]

/-! Writing PC -/

theorem writePc_ok (i : Instr) (s eff : State) {t : Nat} (h : t ≤ 4095) :
    writePc i s t eff = .next (eff.setPc (BitVec.ofNat 16 t)) := by
  simp [writePc, h]

theorem writePc_fatal (i : Instr) (s eff : State) {t : Nat} (h : 4095 < t) :
    writePc i s t eff = raise .addressOutOfRange i s := by
  simp [writePc, Nat.not_le.2 h]

/-- All that a PC write can do: complete at `t`, or take AddressOutOfRange. -/
theorem writePc_cases (i : Instr) (s eff : State) (t : Nat) :
    (t ≤ 4095 ∧ writePc i s t eff = .next (eff.setPc (BitVec.ofNat 16 t))) ∨
    (4095 < t ∧ writePc i s t eff = .next (takeFatal .addressOutOfRange (some (encode i)) s)) := by
  rcases Nat.lt_or_ge 4095 t with h | h
  · exact .inr ⟨h, writePc_fatal i s eff h⟩
  · exact .inl ⟨h, writePc_ok i s eff h⟩

theorem advance_ok (i : Instr) (s eff : State) (h : s.pc.toNat ≤ 4093) :
    advance i s eff = .next (eff.setPc (BitVec.ofNat 16 (s.pc.toNat + 2))) :=
  writePc_ok i s eff (by omega)

theorem advance_fatal (i : Instr) (s eff : State) (h : 4094 ≤ s.pc.toNat) :
    advance i s eff = raise .addressOutOfRange i s :=
  writePc_fatal i s eff (by omega)

theorem skipIf_ok (i : Instr) (s : State) (c : Bool) (h : s.pc.toNat + (if c then 4 else 2) ≤ 4095) :
    skipIf i s c = .next (s.setPc (BitVec.ofNat 16 (s.pc.toNat + if c then 4 else 2))) :=
  writePc_ok i s s h

theorem skipIf_fatal (i : Instr) (s : State) (c : Bool) (h : 4095 < s.pc.toNat + (if c then 4 else 2)) :
    skipIf i s c = raise .addressOutOfRange i s :=
  writePc_fatal i s s h

/-! Operand checks -/

theorem checkAddr_ok (i : Instr) (s : State) (k : Result) {last : Nat} (h : last ≤ 4095) : checkAddr i s last k = k := by
  simp [checkAddr, h]

theorem checkAddr_fatal (i : Instr) (s : State) (k : Result) {last : Nat} (h : 4095 < last) :
    checkAddr i s last k = raise .addressOutOfRange i s := by
  simp [checkAddr, Nat.not_le.2 h]

theorem State.keyIndex_some {s : State} {x : RegIdx} (h : (s.getV x).toNat ≤ 15) :
    s.keyIndex x = some (s.getV x).toNat := by
  simp [State.keyIndex, h]

theorem State.keyIndex_none {s : State} {x : RegIdx} (h : 15 < (s.getV x).toNat) : s.keyIndex x = none := by
  simp [State.keyIndex, Nat.not_le.2 h]

/-! The key wait -/

/-- A nonempty sample has a lowest pressed key. -/
theorem firstKey_pressed {ks : Keys} (h : ks ≠ 0#16) : ks.getLsbD (firstKey ks).toNat = true := by
  have hex : ∃ k, k < 16 ∧ ks.getLsbD k = true := by
    by_contra hne
    refine h (BitVec.eq_of_getLsbD_eq fun k hk => ?_)
    simpa using fun e => hne ⟨k, hk, e⟩
  obtain ⟨k, hk, hp⟩ := hex
  have hs : ((List.range 16).find? fun k => ks.getLsbD k).isSome := by
    rw [List.find?_isSome]
    exact ⟨k, List.mem_range.2 hk, hp⟩
  obtain ⟨j, hj⟩ := Option.isSome_iff_exists.1 hs
  have hlt : j < 16 := List.mem_range.1 (List.mem_of_find?_eq_some hj)
  have hpj := List.find?_some hj
  simpa [firstKey, hj, Nat.mod_eq_of_lt hlt] using hpj

/-- The key chosen is a pressed one, whatever the preference. -/
theorem chooseKey_pressed {ks : Keys} (h : ks ≠ 0#16) (p : BitVec 4) : ks.getLsbD (chooseKey ks p).toNat = true := by
  unfold chooseKey
  split
  · assumption
  · exact firstKey_pressed h

/-- Every pressed key is the answer of some preference: the choice shuts no pressed key out. -/
theorem chooseKey_of_pressed {ks : Keys} {p : BitVec 4} (h : ks.getLsbD p.toNat = true) : chooseKey ks p = p := by
  simp [chooseKey, h]

theorem keyWait_none (x : RegIdx) {s : State} (h : s.keys = 0#16) :
    keyWait x s = .next (s.setMode (.blockedOnKey x)) := by
  simp [keyWait, h]

theorem keyWait_some (x : RegIdx) {s : State} (h : s.keys ≠ 0#16) :
    keyWait x s = advance (.ldVxK x) s
      (((s.setV x ((chooseKey s.keys (Config.keyChoice s.draws)).setWidth 8)).setMode .running).tookDraw) := by
  simp [keyWait, h]

/-! The stages of the cycle -/

theorem fetch_some {s : State} (h : s.pc.toNat ≤ 4094) :
    fetch s = some (wordOfBytes (s.readByte s.pc.toNat) (s.readByte (s.pc.toNat + 1))) := by
  simp only [fetch, Config.lastAddr, if_pos (show s.pc.toNat + 1 ≤ 4095 by omega)]

theorem fetch_none {s : State} (h : 4095 ≤ s.pc.toNat) : fetch s = none := by
  simp only [fetch, Config.lastAddr, if_neg (show ¬ s.pc.toNat + 1 ≤ 4095 by omega)]

/-- `fetch` depends on PC and memory alone. -/
theorem fetch_congr {s t : State} (hpc : t.pc = s.pc) (hmem : t.mem = s.mem) (hfont : t.font = s.font) :
    fetch t = fetch s := by
  simp [fetch, State.readByte, hpc, hmem, hfont]

@[simp] theorem fetch_setMode (s : State) (m : Mode) : fetch (s.setMode m) = fetch s := rfl
@[simp] theorem fetch_beginCycle (s : State) : fetch s.beginCycle = fetch s := rfl
@[simp] theorem fetch_timerTick (s : State) : fetch (timerTick s) = fetch s := rfl

theorem endCycle_halted {t : State} (h : t.mode = .halted) : endCycle (.next t) = .next t := by
  simp [endCycle, h]

theorem endCycle_ticks {t : State} (h : t.mode ≠ .halted) : endCycle (.next t) = .next (timerTick t) := by
  simp [endCycle, h]

theorem tickByte_toNat (b : Byte) : (tickByte b).toNat = b.toNat - 1 := by
  unfold tickByte
  split
  · rename_i h
    simp [h]
  · rename_i h
    have : b.toNat ≠ 0 := fun e => h (BitVec.eq_of_toNat_eq (by simpa using e))
    rw [BitVec.toNat_sub_of_le (by rw [BitVec.le_def]; simp; omega)]
    simp

/-! The host's moves, one lemma per arm -/

@[simp] theorem hostMove_cycleReq (s : State) : hostMove .cycleReq s = step s := rfl
@[simp] theorem hostMove_keysIn (ks : Keys) (s : State) : hostMove (.keysIn ks) s = .next (s.setKeys ks) := rfl
@[simp] theorem hostMove_keysClearAll (s : State) : hostMove .keysClearAll s = .next s.clearKeys := rfl
@[simp] theorem hostMove_redrawAck (s : State) : hostMove .redrawAck s = .next s.redrawAck := rfl
@[simp] theorem hostMove_resetLoad (rom : List Byte) (s : State) : hostMove (.resetLoad rom) s = .next (s.resetLoad rom) := rfl
@[simp] theorem hostMove_resetLoadFailure (s : State) : hostMove .resetLoadFailure s = .next s.resetLoadFailure := rfl

/-! What a cycle does in each mode -/

theorem step_halted {s : State} (h : s.mode = .halted) : step s = .next s.beginCycle := by
  simp [step, h]

theorem step_blocked {s : State} {x : RegIdx} (h : s.mode = .blockedOnKey x) :
    step s = endCycle (keyWait x s.beginCycle) := by
  simp [step, h]

theorem step_fetch_fatal {s : State} (h : s.mode = .running) (hf : fetch s = none) :
    step s = .next (takeFatal .addressOutOfRange none s.beginCycle) := by
  simp [step, h, hf]

theorem step_decode_fatal {s : State} (h : s.mode = .running) {w : Word} (hf : fetch s = some w) {e : DecodeError}
    (hd : decode w = .error e) : step s = .next (takeFatal .unrecognizedOpcode (some w) s.beginCycle) := by
  simp [step, h, hf, hd]

end Sys2Proof.Machine
end

