-- ==== Sys2Proof/Laws/Display.lean ====
section
/-! SUPPORT. What drawing a sprite does to the framebuffer, cell by cell, and when it reports a hit. -/

namespace Sys2Proof.Machine

/-- Toggling one cell flips that cell and no other. -/
theorem Frame.cell_toggle (f : Frame) {x y : Nat} (hx : x < 64) (hy : y < 32) (x' y' : Nat) :
    Frame.cell (Frame.toggle f x y) x' y' = (Frame.cell f x' y' ^^ decide (x = x' ∧ y = y')) := by
  unfold Frame.cell Frame.toggle
  rw [dif_pos hy]
  by_cases hy' : y' < 32
  · rw [dif_pos hy', dif_pos hy', Vector.getElem_set]
    by_cases e : y = y'
    · subst e
      by_cases e' : x = x' <;> simp [BitVec.getLsbD_twoPow, e', hx]
      subst e'
      simp [hx]
    · simp [e]
  · rw [dif_neg hy', dif_neg hy']
    have : y ≠ y' := by omega
    simp [this]

/-- The cells that sprite row `r`, byte `b`, lights, in the order of its columns. -/
def rowPixels (x0 y0 r : Nat) (b : Byte) : List (Nat × Nat) :=
  ((List.range 8).filter fun c => spriteBit b c).map fun c => ((x0 + c) % 64, (y0 + r) % 32)

/-- The cells that the sprite rows `bs` light, the first of them row `r`. -/
def spritePixels (x0 y0 : Nat) : Nat → List Byte → List (Nat × Nat)
  | _, [] => []
  | r, b :: bs => rowPixels x0 y0 r b ++ spritePixels x0 y0 (r + 1) bs

/-- XOR one cell with 1 and note a hit where it was 1. -/
def xorCell (acc : Frame × Bool) (p : Nat × Nat) : Frame × Bool :=
  (Frame.toggle acc.1 p.1 p.2, acc.2 || Frame.cell acc.1 p.1 p.2)

theorem drawRow_eq (x0 y0 r : Nat) (b : Byte) (acc : Frame × Bool) :
    drawRow x0 y0 r b acc = (rowPixels x0 y0 r b).foldl xorCell acc := by
  unfold drawRow rowPixels
  rw [List.foldl_map, List.foldl_filter]
  rfl

theorem drawRows_eq (x0 y0 r : Nat) (bs : List Byte) (acc : Frame × Bool) :
    drawRows x0 y0 r bs acc = (spritePixels x0 y0 r bs).foldl xorCell acc := by
  induction bs generalizing r acc with
  | nil => rfl
  | cons b bs ih => rw [drawRows, ih, drawRow_eq, spritePixels, List.foldl_append]

/-- XOR over a list of distinct cells of the grid: the listed cells flip, and a hit is a listed cell that was 1. -/
theorem foldl_xorCell (ps : List (Nat × Nat)) (hn : ps.Nodup) (hg : ∀ p ∈ ps, p.1 < 64 ∧ p.2 < 32)
    (acc : Frame × Bool) :
    (∀ x y, Frame.cell (ps.foldl xorCell acc).1 x y = (Frame.cell acc.1 x y ^^ decide ((x, y) ∈ ps))) ∧
    (ps.foldl xorCell acc).2 = (acc.2 || ps.any fun p => Frame.cell acc.1 p.1 p.2) := by
  induction ps generalizing acc with
  | nil => simp
  | cons p ps ih =>
    obtain ⟨hp, hn⟩ := List.nodup_cons.1 hn
    obtain ⟨hgp, hg⟩ := List.forall_mem_cons.1 hg
    obtain ⟨hc, hh⟩ := ih hn hg (xorCell acc p)
    have hcell : ∀ x y, Frame.cell (xorCell acc p).1 x y = (Frame.cell acc.1 x y ^^ decide ((x, y) = p)) := by
      intro x y
      rw [xorCell, Frame.cell_toggle _ hgp.1 hgp.2]
      congr 1
      exact decide_eq_decide.2 ⟨fun h => Prod.ext h.1.symm h.2.symm, fun h => by rw [← h]; exact ⟨rfl, rfl⟩⟩
    constructor
    · intro x y
      rw [List.foldl_cons, hc, hcell, Bool.xor_assoc]
      congr 1
      by_cases e : (x, y) = p
      · simp [e, hp]
      · simp [e]
    · rw [List.foldl_cons, hh, List.any_cons, xorCell, Bool.or_assoc]
      congr 2
      rw [Bool.eq_iff_iff, List.any_eq_true, List.any_eq_true]
      refine exists_congr fun q => and_congr_right fun hq => ?_
      have : (q.1, q.2) ≠ p := fun e => hp (e ▸ hq)
      rw [show Frame.cell (Frame.toggle acc.1 p.1 p.2) q.1 q.2 = _ from hcell q.1 q.2]
      simp [this]

/-! Where a sprite's pixels lie -/

theorem mem_rowPixels {x0 y0 r : Nat} {b : Byte} {p : Nat × Nat} :
    p ∈ rowPixels x0 y0 r b ↔
      ∃ c, c < 8 ∧ spriteBit b c = true ∧ p = ((x0 + c) % 64, (y0 + r) % 32) := by
  simp only [rowPixels, List.mem_map, List.mem_filter, List.mem_range]
  exact ⟨fun ⟨c, ⟨h, hb⟩, e⟩ => ⟨c, h, hb, e.symm⟩, fun ⟨c, h, hb, e⟩ => ⟨c, ⟨h, hb⟩, e.symm⟩⟩

theorem mem_spritePixels {x0 y0 r : Nat} {bs : List Byte} {p : Nat × Nat} :
    p ∈ spritePixels x0 y0 r bs ↔
      ∃ k, ∃ h : k < bs.length, ∃ c, c < 8 ∧ spriteBit bs[k] c = true ∧
        p = ((x0 + c) % 64, (y0 + (r + k)) % 32) := by
  induction bs generalizing r with
  | nil => simp [spritePixels]
  | cons b bs ih =>
    rw [spritePixels, List.mem_append, mem_rowPixels, ih]
    constructor
    · rintro (⟨c, h⟩ | ⟨k, hk, c, h⟩)
      · exact ⟨0, by simp, c, h⟩
      · exact ⟨k + 1, by simpa using hk, c, by simpa [Nat.add_assoc, Nat.add_comm, Nat.add_left_comm] using h⟩
    · rintro ⟨k, hk, c, h⟩
      cases k with
      | zero => exact .inl ⟨c, by simpa using h⟩
      | succ k =>
        exact .inr ⟨k, by simpa using hk, c, by simpa [Nat.add_assoc, Nat.add_comm, Nat.add_left_comm] using h⟩

theorem rowPixels_nodup (x0 y0 r : Nat) (b : Byte) : (rowPixels x0 y0 r b).Nodup := by
  refine List.Nodup.map_on (fun c hc d hd e => ?_) (List.nodup_range.filter _)
  have hc := List.mem_range.1 (List.mem_filter.1 hc).1
  have hd := List.mem_range.1 (List.mem_filter.1 hd).1
  have := (Prod.mk.injEq _ _ _ _ ▸ e).1
  omega

/-- The pixels of one sprite of at most 32 rows land on distinct cells (45_display.md R161). -/
theorem spritePixels_nodup (x0 y0 r : Nat) (bs : List Byte) (h : bs.length ≤ 32) :
    (spritePixels x0 y0 r bs).Nodup := by
  induction bs generalizing r with
  | nil => exact List.nodup_nil
  | cons b bs ih =>
    rw [List.length_cons] at h
    refine List.nodup_append'.2 ⟨rowPixels_nodup _ _ _ _, ih _ (by omega), fun p hp hq => ?_⟩
    obtain ⟨c, _, _, rfl⟩ := mem_rowPixels.1 hp
    obtain ⟨k, hk, d, _, _, e⟩ := mem_spritePixels.1 hq
    have := (Prod.mk.injEq _ _ _ _ ▸ e).2
    omega

theorem spritePixels_grid {x0 y0 r : Nat} {bs : List Byte} : ∀ p ∈ spritePixels x0 y0 r bs, p.1 < 64 ∧ p.2 < 32 := by
  intro p hp
  obtain ⟨k, _, c, _, _, rfl⟩ := mem_spritePixels.1 hp
  exact ⟨Nat.mod_lt _ (by omega), Nat.mod_lt _ (by omega)⟩

/-- All that drawing sprite rows can do: the lit cells flip, and a hit is a lit cell that was 1. -/
theorem drawRows_spec (x0 y0 r : Nat) (bs : List Byte) (h : bs.length ≤ 32) (acc : Frame × Bool) :
    (∀ x y, Frame.cell (drawRows x0 y0 r bs acc).1 x y =
      (Frame.cell acc.1 x y ^^ decide ((x, y) ∈ spritePixels x0 y0 r bs))) ∧
    (drawRows x0 y0 r bs acc).2 = (acc.2 || (spritePixels x0 y0 r bs).any fun p => Frame.cell acc.1 p.1 p.2) := by
  rw [drawRows_eq]
  exact foldl_xorCell _ (spritePixels_nodup _ _ _ _ h) spritePixels_grid acc

/-- Two frames whose cells all read the same are the same frame. -/
theorem Frame.ext_cells {f g : Frame} (h : ∀ x y, x < 64 → y < 32 → Frame.cell f x y = Frame.cell g x y) : f = g := by
  refine Vector.ext fun y hy => BitVec.eq_of_getLsbD_eq fun x hx => ?_
  simpa [Frame.cell, hy] using h x y hx hy

end Sys2Proof.Machine
end

