-- ==== Sys2Proof/Laws/Frames.lean ====
section
/-! SUPPORT. Which pieces of state each update leaves as they were, and how frames compose. -/

namespace Sys2Proof.Safety

open Sys2Proof.Machine

theorem Same.refl (p : Piece) (s : State) : Same p s s := by
  cases p <;> simp [Same]

theorem Same.trans {p : Piece} {s t u : State} (h : Same p s t) (h' : Same p t u) : Same p s u := by
  cases p
  case stack =>
    obtain ⟨h1, h2⟩ := h
    obtain ⟨h3, h4⟩ := h'
    exact ⟨h3.trans h1, fun k hk => (h4 k (by rw [h1]; exact hk)).trans (h2 k hk)⟩
  case v => exact fun x => (h' x).trans (h x)
  case fb => exact fun x y => (h' x y).trans (h x y)
  case mem => exact fun a => (h' a).trans (h a)
  all_goals exact Eq.trans h' h

/-- Two frames one after the other: what neither writes is as it was. -/
theorem SameBut.trans {ps qs : List Piece} {s t u : State} (h : SameBut ps s t) (h' : SameBut qs t u) :
    SameBut (ps ++ qs) s u := fun p hp =>
  (h p fun m => hp (List.mem_append_left _ m)).trans (h' p fun m => hp (List.mem_append_right _ m))

theorem SameBut.mono {ps qs : List Piece} {s t : State} (h : SameBut ps s t) (hs : ∀ p ∈ ps, p ∈ qs) :
    SameBut qs s t := fun p hp => h p fun m => hp (hs p m)

/-- A frame from the pieces' fields: every piece not listed has the same field. -/
theorem sameBut_of_fields {ps : List Piece} {s t : State}
    (hv : .v ∈ ps ∨ t.v = s.v) (hi : .i ∈ ps ∨ t.i = s.i) (hpc : .pc ∈ ps ∨ t.pc = s.pc)
    (hstack : .stack ∈ ps ∨ t.stack = s.stack ∧ t.sp = s.sp) (hdt : .dt ∈ ps ∨ t.dt = s.dt)
    (hst : .st ∈ ps ∨ t.st = s.st) (hkeys : .keys ∈ ps ∨ t.keys = s.keys) (hfb : .fb ∈ ps ∨ t.fb = s.fb)
    (hredraw : .redrawPending ∈ ps ∨ t.redrawPending = s.redrawPending) (hmode : .mode ∈ ps ∨ t.mode = s.mode)
    (hfault : .fault ∈ ps ∨ t.fault = s.fault) (hmem : .mem ∈ ps ∨ t.mem = s.mem ∧ t.font = s.font)
    (hfont : .font ∈ ps ∨ t.font = s.font) (hdraws : .draws ∈ ps ∨ t.draws = s.draws)
    (hevent : .event ∈ ps ∨ t.event = s.event) : SameBut ps s t := by
  intro p hp
  cases p
  case v => exact fun x => State.getV_of_v_eq (hv.resolve_left hp) x
  case stack =>
    obtain ⟨h, h'⟩ := hstack.resolve_left hp
    exact ⟨h', fun k _ => State.stackAt_of_stack_eq h k⟩
  case fb =>
    intro x y
    rw [hfb.resolve_left hp]
  case mem =>
    obtain ⟨h, h'⟩ := hmem.resolve_left hp
    exact fun a => by rw [State.readByte, State.readByte, h, h']
  case i => exact hi.resolve_left hp
  case pc => exact hpc.resolve_left hp
  case dt => exact hdt.resolve_left hp
  case st => exact hst.resolve_left hp
  case keys => exact hkeys.resolve_left hp
  case redrawPending => exact hredraw.resolve_left hp
  case mode => exact hmode.resolve_left hp
  case fault => exact hfault.resolve_left hp
  case font => exact hfont.resolve_left hp
  case draws => exact hdraws.resolve_left hp
  case event => exact hevent.resolve_left hp

/-! One frame per update -/

theorem sameBut_setV (s : State) (x : RegIdx) (b : Byte) : SameBut [.v] s (s.setV x b) := by
  apply sameBut_of_fields <;> simp

theorem sameBut_setVs (s : State) (bs : List Byte) : SameBut [.v] s (s.setVs bs) := by
  apply sameBut_of_fields <;> simp

theorem sameBut_setI (s : State) (a : Word) : SameBut [.i] s (s.setI a) := by
  apply sameBut_of_fields <;> simp

theorem sameBut_setPc (s : State) (a : Word) : SameBut [.pc] s (s.setPc a) := by
  apply sameBut_of_fields <;> simp

theorem sameBut_setDt (s : State) (b : Byte) : SameBut [.dt] s (s.setDt b) := by
  apply sameBut_of_fields <;> simp

theorem sameBut_setSt (s : State) (b : Byte) : SameBut [.st] s (s.setSt b) := by
  apply sameBut_of_fields <;> simp

theorem sameBut_setMode (s : State) (m : Mode) : SameBut [.mode] s (s.setMode m) := by
  apply sameBut_of_fields <;> simp

theorem sameBut_setFb (s : State) (f : Frame) : SameBut [.fb, .redrawPending] s (s.setFb f) := by
  apply sameBut_of_fields <;> simp

theorem sameBut_tookDraw (s : State) : SameBut [.draws] s s.tookDraw := by
  apply sameBut_of_fields <;> simp

theorem sameBut_pushed (s : State) (w : Word) (h : s.sp.val < 16) : SameBut [.stack] s (s.pushed w h) := by
  apply sameBut_of_fields <;> simp

theorem sameBut_popped (s : State) : SameBut [.stack] s s.popped := by
  apply sameBut_of_fields <;> simp

theorem sameBut_writeBytes (s : State) (a : Nat) (bs : List Byte) : SameBut [.mem] s (s.writeBytes a bs) := by
  apply sameBut_of_fields <;> simp

theorem sameBut_beginCycle (s : State) : SameBut [.event] s s.beginCycle := by
  apply sameBut_of_fields <;> simp

theorem sameBut_timerTick (s : State) : SameBut [.dt, .st, .event] s (timerTick s) := by
  apply sameBut_of_fields <;> simp

theorem sameBut_takeFatal (k : FatalKind) (w : Option Word) (s : State) :
    SameBut [.mode, .fault, .event] s (takeFatal k w s) := by
  apply sameBut_of_fields <;> simp

/-- The completion of an execute stage whose other writes are framed by `ps`. -/
theorem SameBut.setPc {ps : List Piece} {s t : State} (h : SameBut ps s t) (a : Word) :
    SameBut (.pc :: ps) s (t.setPc a) :=
  (h.trans (sameBut_setPc t a)).mono fun p hp => by
    rcases List.mem_append.1 hp with m | m
    · exact List.mem_cons_of_mem _ m
    · rw [List.mem_singleton.1 m]; exact List.mem_cons_self

/-- Taking a fatal condition is what `Faulted` says (60_exceptions.md R186). -/
theorem takeFatal_faulted (k : FatalKind) (w : Option Word) (s : State) : Faulted k w s (takeFatal k w s) :=
  ⟨rfl, rfl, rfl, sameBut_takeFatal k w s⟩

/-- The same, seen from the state before the cycle began. -/
theorem takeFatal_beginCycle_faulted (k : FatalKind) (w : Option Word) (s : State) :
    Faulted k w s (takeFatal k w s.beginCycle) := by
  refine ⟨rfl, rfl, rfl, ?_⟩
  apply sameBut_of_fields <;> simp

end Sys2Proof.Safety
end

