-- ==== Sys2Proof/Laws/PerInstr.lean ====
section
/-! SUPPORT. One lemma per constructor: the word of an instruction lies in the instruction's row of the opcode map. -/

namespace Sys2Proof.Laws.EncodeInRow

/-- `encode i` is selected by the row of `i` in the opcode map, and that row is one of the 34 (30_encoding.md R74, R78). -/
def Statement (i : Instr) : Prop := (opcodeRowOf i).selects (encode i) = true ∧ opcodeRowOf i ∈ opcodeRows

theorem cls : Statement .cls := ⟨by decide, by rw [opcodeRowOf]; decide⟩
theorem ret : Statement .ret := ⟨by decide, by rw [opcodeRowOf]; decide⟩
theorem jp (nnn : Addr) : Statement (.jp nnn) := ⟨decide_eq_true (mask_nnn _ nnn), by rw [opcodeRowOf]; decide⟩
theorem call (nnn : Addr) : Statement (.call nnn) := ⟨decide_eq_true (mask_nnn _ nnn), by rw [opcodeRowOf]; decide⟩
theorem seImm (x : RegIdx) (nn : Byte) : Statement (.seImm x nn) := ⟨decide_eq_true (mask_xnn _ x nn), by rw [opcodeRowOf]; decide⟩
theorem sneImm (x : RegIdx) (nn : Byte) : Statement (.sneImm x nn) := ⟨decide_eq_true (mask_xnn _ x nn), by rw [opcodeRowOf]; decide⟩
theorem seReg (x y : RegIdx) : Statement (.seReg x y) := ⟨decide_eq_true (mask_xyfixed _ x y _), by rw [opcodeRowOf]; decide⟩
theorem ldImm (x : RegIdx) (nn : Byte) : Statement (.ldImm x nn) := ⟨decide_eq_true (mask_xnn _ x nn), by rw [opcodeRowOf]; decide⟩
theorem addImm (x : RegIdx) (nn : Byte) : Statement (.addImm x nn) := ⟨decide_eq_true (mask_xnn _ x nn), by rw [opcodeRowOf]; decide⟩
theorem ldReg (x y : RegIdx) : Statement (.ldReg x y) := ⟨decide_eq_true (mask_xyfixed _ x y _), by rw [opcodeRowOf]; decide⟩
theorem orReg (x y : RegIdx) : Statement (.orReg x y) := ⟨decide_eq_true (mask_xyfixed _ x y _), by rw [opcodeRowOf]; decide⟩
theorem andReg (x y : RegIdx) : Statement (.andReg x y) := ⟨decide_eq_true (mask_xyfixed _ x y _), by rw [opcodeRowOf]; decide⟩
theorem xorReg (x y : RegIdx) : Statement (.xorReg x y) := ⟨decide_eq_true (mask_xyfixed _ x y _), by rw [opcodeRowOf]; decide⟩
theorem addReg (x y : RegIdx) : Statement (.addReg x y) := ⟨decide_eq_true (mask_xyfixed _ x y _), by rw [opcodeRowOf]; decide⟩
theorem subReg (x y : RegIdx) : Statement (.subReg x y) := ⟨decide_eq_true (mask_xyfixed _ x y _), by rw [opcodeRowOf]; decide⟩
theorem shr (x y : RegIdx) : Statement (.shr x y) := ⟨decide_eq_true (mask_xyfixed _ x y _), by rw [opcodeRowOf]; decide⟩
theorem subn (x y : RegIdx) : Statement (.subn x y) := ⟨decide_eq_true (mask_xyfixed _ x y _), by rw [opcodeRowOf]; decide⟩
theorem shl (x y : RegIdx) : Statement (.shl x y) := ⟨decide_eq_true (mask_xyfixed _ x y _), by rw [opcodeRowOf]; decide⟩
theorem sneReg (x y : RegIdx) : Statement (.sneReg x y) := ⟨decide_eq_true (mask_xyfixed _ x y _), by rw [opcodeRowOf]; decide⟩
theorem ldI (nnn : Addr) : Statement (.ldI nnn) := ⟨decide_eq_true (mask_nnn _ nnn), by rw [opcodeRowOf]; decide⟩
theorem jpV0 (nnn : Addr) : Statement (.jpV0 nnn) := ⟨decide_eq_true (mask_nnn _ nnn), by rw [opcodeRowOf]; decide⟩
theorem rnd (x : RegIdx) (nn : Byte) : Statement (.rnd x nn) := ⟨decide_eq_true (mask_xnn _ x nn), by rw [opcodeRowOf]; decide⟩
theorem drw (x y : RegIdx) (n : Nibble) : Statement (.drw x y n) := ⟨decide_eq_true (mask_xyn _ x y n), by rw [opcodeRowOf]; decide⟩
theorem skp (x : RegIdx) : Statement (.skp x) := ⟨decide_eq_true (mask_xfixed _ x _), by rw [opcodeRowOf]; decide⟩
theorem sknp (x : RegIdx) : Statement (.sknp x) := ⟨decide_eq_true (mask_xfixed _ x _), by rw [opcodeRowOf]; decide⟩
theorem ldVxDt (x : RegIdx) : Statement (.ldVxDt x) := ⟨decide_eq_true (mask_xfixed _ x _), by rw [opcodeRowOf]; decide⟩
theorem ldVxK (x : RegIdx) : Statement (.ldVxK x) := ⟨decide_eq_true (mask_xfixed _ x _), by rw [opcodeRowOf]; decide⟩
theorem ldDtVx (x : RegIdx) : Statement (.ldDtVx x) := ⟨decide_eq_true (mask_xfixed _ x _), by rw [opcodeRowOf]; decide⟩
theorem ldStVx (x : RegIdx) : Statement (.ldStVx x) := ⟨decide_eq_true (mask_xfixed _ x _), by rw [opcodeRowOf]; decide⟩
theorem addI (x : RegIdx) : Statement (.addI x) := ⟨decide_eq_true (mask_xfixed _ x _), by rw [opcodeRowOf]; decide⟩
theorem ldF (x : RegIdx) : Statement (.ldF x) := ⟨decide_eq_true (mask_xfixed _ x _), by rw [opcodeRowOf]; decide⟩
theorem ldB (x : RegIdx) : Statement (.ldB x) := ⟨decide_eq_true (mask_xfixed _ x _), by rw [opcodeRowOf]; decide⟩
theorem storeRegs (x : RegIdx) : Statement (.storeRegs x) := ⟨decide_eq_true (mask_xfixed _ x _), by rw [opcodeRowOf]; decide⟩
theorem loadRegs (x : RegIdx) : Statement (.loadRegs x) := ⟨decide_eq_true (mask_xfixed _ x _), by rw [opcodeRowOf]; decide⟩

end Sys2Proof.Laws.EncodeInRow
end

