-- ==== Sys2Proof/Tests/Slice0.lean ====
section
/-! SUPPORT. The model's own tests: decoding, one step per test, and a witness for the hypotheses of each statement.
Expected results are the vectors of 95_test_vectors.md, named in each docstring, or follow by hand from the rule cited. -/

namespace Sys2Proof.Tests

open Sys2Proof.Machine Sys2Proof.Safety

/-! Building small states -/

/-- The start state of the vectors: reset with an empty ROM. -/
def start : State := State.reset

/-- The reset state with PC at `a`. -/
def startAt (a : Nat) : State := start.setPc (BitVec.ofNat 16 a)

/-- `s` with `n` stack entries in use, the top one `w`. -/
def withStack (s : State) (n : Fin 17) (w : Word) : State :=
  { s with sp := n, stack := if h : n.val - 1 < 16 then s.stack.set (n.val - 1) w h else s.stack }

/-- `s` with the cell (x, y) toggled. -/
def withCell (s : State) (x y : Nat) : State := { s with fb := Frame.toggle s.fb x y }

/-- `s` with both timers set. -/
def withTimers (s : State) (dt st : Byte) : State := (s.setDt dt).setSt st

/-- The state that a result holds; `start` where it is no next state. -/
def resultState (r : Result) : State :=
  match r with
  | .next t => t
  | .fault _ => start
  | .refused _ => start

/-- The state after one cycle that runs the word `w` placed at PC. -/
def after (w : Nat) (s : State) : State := resultState (step (s.withFetchWord 16 w))

/-- What a fatal condition of the word `w` at address `a` records. -/
def recorded (kind : FatalKind) (w : Word) (a : Word) : Option FaultRecord :=
  some { kind := kind, word := some w, pc := some a, romLength := none }

/-! WellFormed: no term of `Instr` can be ill formed (30_encoding.md R72, R80); the one check that can fail is the ROM's -/

/-- Vectors L2 and L3: 3584 bytes fit and 3585 do not. -/
theorem test_romFits : romFits (List.replicate 3584 0#8) = true ∧ romFits (List.replicate 3585 0#8) = false :=
  ⟨decide_eq_true (List.length_replicate (n := 3584)).le,
    decide_eq_false fun h => absurd ((List.length_replicate (n := 3585)).ge.trans h) (by decide)⟩

/-- Instructions at the top of each operand's range are well formed. -/
theorem test_wellFormed : Instr.wellFormed (.drw 0xF#4 0xF#4 0xF#4) = true ∧ Instr.wellFormed (.jp 0xFFF#12) = true ∧
    Instr.wellFormed (.rnd 0xF#4 0xFF#8) = true := by decide

/-! Decoding, every row of 30_encoding.md R78 by a word written from its pattern -/

theorem test_decode_0 : decode 0x00E0#16 = .ok .cls ∧ decode 0x00EE#16 = .ok .ret := by decide
theorem test_decode_1_2 : decode 0x1234#16 = .ok (.jp 0x234#12) ∧ decode 0x2ABC#16 = .ok (.call 0xABC#12) := by decide
theorem test_decode_3_4 : decode 0x332A#16 = .ok (.seImm 3#4 0x2A#8) ∧ decode 0x4CD1#16 = .ok (.sneImm 0xC#4 0xD1#8) := by
  decide
theorem test_decode_5_9 : decode 0x5120#16 = .ok (.seReg 1#4 2#4) ∧ decode 0x9DE0#16 = .ok (.sneReg 0xD#4 0xE#4) := by decide
theorem test_decode_6_7 : decode 0x6A7F#16 = .ok (.ldImm 0xA#4 0x7F#8) ∧ decode 0x70FE#16 = .ok (.addImm 0#4 0xFE#8) := by
  decide
theorem test_decode_8_plain : decode 0x8AB0#16 = .ok (.ldReg 0xA#4 0xB#4) ∧ decode 0x8AB1#16 = .ok (.orReg 0xA#4 0xB#4) ∧
    decode 0x8AB2#16 = .ok (.andReg 0xA#4 0xB#4) ∧ decode 0x8AB3#16 = .ok (.xorReg 0xA#4 0xB#4) := by decide
theorem test_decode_8_flag : decode 0x8AB4#16 = .ok (.addReg 0xA#4 0xB#4) ∧ decode 0x8AB5#16 = .ok (.subReg 0xA#4 0xB#4) ∧
    decode 0x8AB6#16 = .ok (.shr 0xA#4 0xB#4) ∧ decode 0x8AB7#16 = .ok (.subn 0xA#4 0xB#4) ∧
    decode 0x8ABE#16 = .ok (.shl 0xA#4 0xB#4) := by decide
theorem test_decode_A_B : decode 0xA2F0#16 = .ok (.ldI 0x2F0#12) ∧ decode 0xB301#16 = .ok (.jpV0 0x301#12) := by decide
theorem test_decode_C_D : decode 0xC30F#16 = .ok (.rnd 3#4 0x0F#8) ∧ decode 0xD9A5#16 = .ok (.drw 9#4 0xA#4 5#4) := by decide
theorem test_decode_E : decode 0xE59E#16 = .ok (.skp 5#4) ∧ decode 0xE5A1#16 = .ok (.sknp 5#4) := by decide
theorem test_decode_F_timers : decode 0xF107#16 = .ok (.ldVxDt 1#4) ∧ decode 0xF20A#16 = .ok (.ldVxK 2#4) ∧
    decode 0xF315#16 = .ok (.ldDtVx 3#4) ∧ decode 0xF418#16 = .ok (.ldStVx 4#4) := by decide
theorem test_decode_F_memory : decode 0xF51E#16 = .ok (.addI 5#4) ∧ decode 0xF629#16 = .ok (.ldF 6#4) ∧
    decode 0xF733#16 = .ok (.ldB 7#4) ∧ decode 0xF855#16 = .ok (.storeRegs 8#4) ∧
    decode 0xF965#16 = .ok (.loadRegs 9#4) := by decide
/-- Vectors X1 to X4, K12, K13, A36, A37, E7, E21, X6. -/
theorem test_decode_unrecognized :
    [0x0000, 0x00E1, 0x01E0, 0x0123, 0x5121, 0x912F, 0x8128, 0x812F, 0xE59F, 0xF00B, 0xFF75].all
      (fun w => decide (decode (BitVec.ofNat 16 w) = .error (.unrecognized (BitVec.ofNat 16 w)))) = true := by decide
/-- Vector X10: bytes 0x12, 0x34 are the word 0x1234. -/
theorem test_decodeBytes : decodeBytes [0x12#8, 0x34#8] = .ok (.jp 0x234#12, []) ∧ decodeBytes [0x12#8] = .error .truncated := by
  decide
/-- Vector X8, all six fields. -/
theorem test_fields : fields 0xD9A5#16 = { op := 0xD#4, x := 9#4, y := 0xA#4, n := 5#4, nn := 0xA5#8, nnn := 0x9A5#12 } := by decide
theorem test_encode : encode (.drw 9#4 0xA#4 5#4) = 0xD9A5#16 ∧ encode (.shl 4#4 5#4) = 0x845E#16 ∧
    encode (.call 0x210#12) = 0x2210#16 ∧ encode (.loadRegs 0xF#4) = 0xFF65#16 := by decide
theorem test_decodeTableWord : decodeTableWord 16 0x845E = some (.shl 4#4 5#4) ∧ decodeTableWord 16 0xFF75 = none ∧
    decodeTableWord 16 0x00EE = some .ret := by decide

/-! Control transfer, vectors of 95_test_vectors.md section 2.1 -/

/-- F1. -/
theorem test_ret : (after 0x00EE (withStack (startAt 0x212) 1 0x206#16)).pc = 0x206#16 ∧
    (after 0x00EE (withStack (startAt 0x212) 1 0x206#16)).sp = 0 := by decide
/-- F2, F3: underflow; a popped 0x1000 is fatal and SP stays 2. -/
theorem test_ret_fatal : (after 0x00EE start).fault = recorded .stackUnderflow 0x00EE#16 0x200#16 ∧
    (after 0x00EE (withStack start 2 0x1000#16)).fault = recorded .addressOutOfRange 0x00EE#16 0x200#16 ∧
    (after 0x00EE (withStack start 2 0x1000#16)).sp = 2 := by decide
/-- F4, F5. -/
theorem test_jp : (after 0x1204 (startAt 0x20A)).pc = 0x204#16 ∧ (after 0x1FFF start).pc = 0xFFF#16 := by decide
/-- F7 and F9: the 16th entry; a call at 0xFFE pushes 0x1000. -/
theorem test_call : (after 0x2210 (withStack (startAt 0x204) 15 0#16)).sp = 16 ∧
    (after 0x2210 (withStack (startAt 0x204) 15 0#16)).stackAt 15 = 0x206#16 ∧
    (after 0x2300 (startAt 0xFFE)).pc = 0x300#16 ∧ (after 0x2300 (startAt 0xFFE)).stackAt 0 = 0x1000#16 := by decide
/-- F8. -/
theorem test_call_overflow : (after 0x2210 (withStack (startAt 0x204) 16 0#16)).fault = recorded .stackOverflow 0x2210#16 0x204#16 ∧
    (after 0x2210 (withStack (startAt 0x204) 16 0#16)).pc = 0x204#16 := by decide
/-- F10, F12, F11. -/
theorem test_jpV0 : (after 0xB300 (start.setV 0 4)).pc = 0x304#16 ∧ (after 0xBFFF start).pc = 0xFFF#16 ∧
    (after 0xBFFF (start.setV 0 1)).fault = recorded .addressOutOfRange 0xBFFF#16 0x200#16 := by decide

/-! Skips, section 2.2 -/

/-- K1, K2. -/
theorem test_seImm : (after 0x332A (start.setV 3 0x2A)).pc = 0x204#16 ∧ (after 0x332B (start.setV 3 0x2A)).pc = 0x202#16 := by
  decide
/-- K3, K4. -/
theorem test_sneImm : (after 0x432A (start.setV 3 0x2A)).pc = 0x202#16 ∧ (after 0x432B (start.setV 3 0x2A)).pc = 0x204#16 := by
  decide
/-- K5, K6. -/
theorem test_seReg : (after 0x5120 ((start.setV 1 7).setV 2 7)).pc = 0x204#16 ∧
    (after 0x5120 ((start.setV 1 7).setV 2 8)).pc = 0x202#16 := by decide
/-- K8, K9. -/
theorem test_sneReg : (after 0x9120 ((start.setV 1 7).setV 2 8)).pc = 0x204#16 ∧
    (after 0x9120 ((start.setV 1 7).setV 2 7)).pc = 0x202#16 := by decide
/-- K10, K11. -/
theorem test_skip_edge : (after 0x3000 (startAt 0xFFC)).fault = recorded .addressOutOfRange 0x3000#16 0xFFC#16 ∧
    (after 0x3001 (startAt 0xFFC)).pc = 0xFFE#16 := by decide

/-! Register load and ALU, section 2.3 -/

/-- A1, A2. -/
theorem test_ldImm : (after 0x6A7F start).getV 0xA = 0x7F#8 ∧ (after 0x6F05 start).getV 0xF = 5#8 ∧
    (after 0x6A7F start).pc = 0x202#16 := by decide
/-- A35. -/
theorem test_ldImm_edge : (after 0x6000 (startAt 0xFFE)).fault = recorded .addressOutOfRange 0x6000#16 0xFFE#16 ∧
    (after 0x6000 (startAt 0xFFE)).mode = .halted := by decide
/-- A3, A4. -/
theorem test_addImm : (after 0x7002 ((start.setV 0 0xFF).setV 0xF 7)).getV 0 = 1#8 ∧
    (after 0x7002 ((start.setV 0 0xFF).setV 0xF 7)).getV 0xF = 7#8 ∧ (after 0x70FF (start.setV 0 5)).getV 0 = 4#8 := by decide
/-- A5. -/
theorem test_ldReg : (after 0x8120 (start.setV 2 0x33)).getV 1 = 0x33#8 := by decide
/-- A6. -/
theorem test_orReg : (after 0x8121 (((start.setV 1 0xF0).setV 2 0x0F).setV 0xF 1)).getV 1 = 0xFF#8 ∧
    (after 0x8121 (((start.setV 1 0xF0).setV 2 0x0F).setV 0xF 1)).getV 0xF = 1#8 := by decide
/-- A7. -/
theorem test_andReg : (after 0x8122 (((start.setV 1 0xF0).setV 2 0x3C).setV 0xF 1)).getV 1 = 0x30#8 ∧
    (after 0x8122 (((start.setV 1 0xF0).setV 2 0x3C).setV 0xF 1)).getV 0xF = 1#8 := by decide
/-- A8. -/
theorem test_xorReg : (after 0x8123 (((start.setV 1 0xF0).setV 2 0x3C).setV 0xF 1)).getV 1 = 0xCC#8 ∧
    (after 0x8123 (((start.setV 1 0xF0).setV 2 0x3C).setV 0xF 1)).getV 0xF = 1#8 := by decide
/-- A10, A13. -/
theorem test_addReg : (after 0x8124 ((start.setV 1 200).setV 2 100)).getV 1 = 0x2C#8 ∧
    (after 0x8124 ((start.setV 1 200).setV 2 100)).getV 0xF = 1#8 ∧
    (after 0x8124 ((start.setV 1 255).setV 2 0)).getV 0xF = 0#8 := by decide
/-- A15, A16. -/
theorem test_addReg_vf : (after 0x8F14 ((start.setV 0xF 200).setV 1 100)).getV 0xF = 1#8 ∧
    (after 0x81F4 ((start.setV 1 10).setV 0xF 1)).getV 1 = 11#8 ∧
    (after 0x81F4 ((start.setV 1 10).setV 0xF 1)).getV 0xF = 0#8 := by decide
/-- A17, A19. -/
theorem test_subReg : (after 0x8125 ((start.setV 1 5).setV 2 10)).getV 1 = 0xFB#8 ∧
    (after 0x8125 ((start.setV 1 5).setV 2 10)).getV 0xF = 0#8 ∧
    (after 0x8125 ((start.setV 1 7).setV 2 7)).getV 0xF = 1#8 := by decide
/-- A21. -/
theorem test_subReg_vf : (after 0x8F15 ((start.setV 0xF 5).setV 1 10)).getV 0xF = 0#8 := by decide
/-- A24, A25. -/
theorem test_shr : (after 0x8456 ((start.setV 4 0xFF).setV 5 0x12)).getV 4 = 0x7F#8 ∧
    (after 0x8456 ((start.setV 4 0xFF).setV 5 0x12)).getV 5 = 0x12#8 ∧ (after 0x8F06 (start.setV 0xF 3)).getV 0xF = 1#8 := by decide
/-- A26, A27. -/
theorem test_subn : (after 0x8127 ((start.setV 1 5).setV 2 10)).getV 1 = 5#8 ∧
    (after 0x8127 ((start.setV 1 5).setV 2 10)).getV 0xF = 1#8 ∧
    (after 0x8127 ((start.setV 1 10).setV 2 5)).getV 1 = 0xFB#8 := by decide
/-- A29, A31. -/
theorem test_shl : (after 0x840E (start.setV 4 0x81)).getV 4 = 2#8 ∧ (after 0x840E (start.setV 4 0x81)).getV 0xF = 1#8 ∧
    (after 0x8F0E (start.setV 0xF 0x80)).getV 0xF = 1#8 := by decide
/-- A33, whatever the free byte. -/
theorem test_rnd : (after 0xC300 (start.setV 3 9)).getV 3 = 0#8 := by
  show Config.randByte 0 &&& 0#8 = 0#8
  simp
theorem test_rnd_draws : (after 0xC3FF start).draws = 1 ∧ (after 0xC3FF start).pc = 0x202#16 := by decide

/-! Index and memory, section 2.4 -/

/-- M1. -/
theorem test_ldI : (after 0xA2F0 start).i = 0x2F0#16 := by decide
/-- M2, M3. -/
theorem test_addI : (after 0xF21E ((start.setI 0x0FFE).setV 2 5)).i = 0x1003#16 ∧
    (after 0xF21E ((start.setI 0xFFFF).setV 2 2)).i = 1#16 := by decide
/-- M4, M5. -/
theorem test_ldF : (after 0xF029 (start.setV 0 0x0A)).i = 0x32#16 ∧ (after 0xF029 (start.setV 0 0xFF)).i = 0x4FB#16 := by decide
/-- M9. -/
theorem test_ldB : let t := after 0xF033 ((start.setI 0xFFD).setV 0 109)
    t.readByte 0xFFD = 1#8 ∧ t.readByte 0xFFE = 0#8 ∧ t.readByte 0xFFF = 9#8 := by decide
/-- M10. -/
theorem test_ldB_edge : let t := after 0xF033 ((start.setI 0xFFE).setV 0 109)
    t.fault = recorded .addressOutOfRange 0xF033#16 0x200#16 ∧ t.readByte 0xFFE = 0#8 ∧ t.readByte 0xFFF = 0#8 := by decide
/-- M11. -/
theorem test_storeRegs : let t := after 0xF255 ((((((start.setI 0x300).setV 0 1).setV 1 2).setV 2 3).setV 3 4))
    t.readByte 0x300 = 1#8 ∧ t.readByte 0x302 = 3#8 ∧ t.readByte 0x303 = 0#8 ∧ t.i = 0x300#16 := by decide
/-- M12, M13. -/
theorem test_storeRegs_edge : (after 0xF055 ((start.setI 0xFFF).setV 0 0xAA)).readByte 0xFFF = 0xAA#8 ∧
    (after 0xF155 ((start.setI 0xFFF).setV 0 0xAA)).fault = recorded .addressOutOfRange 0xF155#16 0x200#16 ∧
    (after 0xF155 ((start.setI 0xFFF).setV 0 0xAA)).readByte 0xFFF = 0#8 := by decide
/-- M14. -/
theorem test_loadRegs : let t := after 0xF265 ((((start.setI 0x300).writeByte 0x300 2).writeByte 0x302 4).writeByte 0x303 5)
    t.getV 0 = 2#8 ∧ t.getV 1 = 0#8 ∧ t.getV 2 = 4#8 ∧ t.getV 3 = 0#8 ∧ t.i = 0x300#16 := by decide
/-- M15, M16. -/
theorem test_loadRegs_edge : (after 0xFF65 (start.setI 0xFF1)).fault = recorded .addressOutOfRange 0xFF65#16 0x200#16 ∧
    (after 0xF065 (start.setI 0x1000)).fault = recorded .addressOutOfRange 0xF065#16 0x200#16 := by decide

/-! Display, section 2.5 -/

/-- D1. -/
theorem test_cls : let t := after 0x00E0 (withCell (withCell start 63 31) 10 5)
    Frame.cell t.fb 63 31 = false ∧ Frame.cell t.fb 10 5 = false ∧ t.redrawPending = true := by decide
/-- D2: a row that wraps at the right edge, on the last line. -/
theorem test_drw_wrap : let t := after 0xD121 ((((start.setI 0x300).writeByte 0x300 0xC0).setV 1 63).setV 2 31)
    Frame.cell t.fb 63 31 = true ∧ Frame.cell t.fb 0 31 = true ∧ Frame.cell t.fb 1 31 = false ∧ t.getV 0xF = 0#8 ∧
      t.redrawPending = true := by decide
/-- D13: bit 0 falls on a lit cell in column 7. -/
theorem test_drw_collision : let t := after 0xD121 (withCell ((start.setI 0x300).writeByte 0x300 0x81) 7 0)
    Frame.cell t.fb 0 0 = true ∧ Frame.cell t.fb 7 0 = false ∧ t.getV 0xF = 1#8 := by decide

/-! Keys and timers, section 2.6 -/

/-- E1, E2. -/
theorem test_skp : (after 0xE59E (((startAt 0x220).setV 5 10).setKeys 0x0400)).pc = 0x224#16 ∧
    (after 0xE59E ((startAt 0x220).setV 5 10)).pc = 0x222#16 := by decide
/-- E5. -/
theorem test_skp_fatal : (after 0xE59E ((start.setV 5 16).setKeys 0xFFFF)).fault = recorded .keyIndexOutOfRange 0xE59E#16 0x200#16 := by
  decide
/-- E3, E4. -/
theorem test_sknp : (after 0xE5A1 ((startAt 0x220).setV 5 10)).pc = 0x224#16 ∧
    (after 0xE5A1 (((startAt 0x220).setV 5 10).setKeys 0x0400)).pc = 0x222#16 := by decide
/-- E6. -/
theorem test_sknp_fatal : (after 0xE5A1 (start.setV 5 0xFF)).fault = recorded .keyIndexOutOfRange 0xE5A1#16 0x200#16 := by decide
/-- E8. -/
theorem test_ldVxK_blocks : (after 0xF20A (startAt 0x20A)).mode = .blockedOnKey 2#4 ∧
    (after 0xF20A (startAt 0x20A)).pc = 0x20A#16 := by decide
/-- E9 and E10a: whatever key the free choice prefers, one pressed key is the answer, and of two pressed keys one of them. -/
theorem test_chooseKey : (∀ p, chooseKey 0x0080#16 p = 7#4) ∧ (∀ p, chooseKey 0x0081#16 p = 0#4 ∨ chooseKey 0x0081#16 p = 7#4) := by
  decide
/-- E11, E12. -/
theorem test_ldVxDt : (after 0xF107 (start.setDt 2)).getV 1 = 2#8 ∧ (after 0xF107 (start.setDt 2)).dt = 1#8 ∧
    (after 0xF107 (start.setV 1 9)).getV 1 = 0#8 := by decide
/-- E13, E15. -/
theorem test_ldDtVx : (after 0xF015 (start.setV 0 3)).dt = 2#8 ∧ (after 0xF015 (start.setDt 9)).dt = 0#8 := by decide
/-- E16, E17, E18. -/
theorem test_ldStVx : (after 0xF018 (start.setV 0 5)).st = 4#8 ∧ (after 0xF018 (start.setV 0 1)).toneEnd = true ∧
    (after 0xF018 (start.setSt 5)).st = 0#8 ∧ (after 0xF018 (start.setSt 5)).toneEnd = false := by decide
/-- E19, E20. -/
theorem test_tick : (after 0x6000 (withTimers start 1 1)).toneEnd = true ∧ (after 0x6000 (withTimers start 255 2)).dt = 254#8 ∧
    (after 0x6000 (withTimers start 255 2)).st = 1#8 ∧ (after 0x6000 (withTimers start 255 2)).event = none := by decide

/-! Decode, fetch, halt, load: sections 2.7 and 2.8 -/

/-- X4: 0NNN is unrecognized and the timers do not tick. -/
theorem test_unrecognized : (after 0x0123 (withTimers start 4 4)).fault = recorded .unrecognizedOpcode 0x0123#16 0x200#16 ∧
    (after 0x0123 (withTimers start 4 4)).dt = 4#8 ∧ (after 0x0123 (withTimers start 4 4)).st = 4#8 := by decide
/-- X5: the fetch at 0xFFF. -/
theorem test_fetch_edge : (resultState (step (startAt 0xFFF))).fault =
    some { kind := .addressOutOfRange, word := none, pc := some 0xFFF#16, romLength := none } := by decide
/-- X7. -/
theorem test_halted : (resultState (step (after 0x0123 start))).fatalOut = none ∧
    (after 0x0123 start).fatalOut = recorded .unrecognizedOpcode 0x0123#16 0x200#16 ∧
    (resultState (step (after 0x0123 start))).pc = 0x200#16 := by decide
/-- L1: the empty ROM's first cycle faults as X1. -/
theorem test_empty_rom : start.resetLoad [] = State.reset ∧
    (resultState (step (start.resetLoad []))).fault = recorded .unrecognizedOpcode 0#16 0x200#16 := by decide
/-- L4, L5. -/
theorem test_load : (start.resetLoad [0x12, 0x00]).readByte 512 = 0x12#8 ∧ (start.resetLoad [0x12, 0x00]).readByte 513 = 0#8 ∧
    (start.resetLoad [0x12, 0x00]).readByte 0 = 0xF0#8 ∧ fetch (start.resetLoad [0x12]) = some 0x1200#16 := by decide

/-! Witnesses: for each statement with hypotheses, a concrete state and operands that meet all of them, one per clause and at
the ends of the clause's range -/

/-- A running state about to execute LD V2, K at 0x20A, timers counting. -/
def waiting : State := withTimers ((startAt 0x20A).withFetchWord 16 0xF20A) 3 1

/-- The same machine blocked on key, no key pressed. -/
def blocked : State := waiting.setMode (.blockedOnKey 2#4)

/-- A halted machine. -/
def halted : State := after 0x0123 start

theorem test_witness_EncodeOfDecode : decode 0x8456#16 = .ok (.shr 4#4 5#4) := by decide
theorem test_witness_DecodeFollows : decode 0xFF65#16 = .ok (.loadRegs 0xF#4) ∧
    decode 0xFF75#16 = .error (.unrecognized 0xFF75#16) ∧ ∀ r ∈ opcodeRows, r.selects 0xFF75#16 = false := by decide
theorem test_witness_RowsDisjoint : (⟨0x8006, 0xF00F⟩ : OpcodeRow) ∈ opcodeRows ∧
    OpcodeRow.selects ⟨0x8006, 0xF00F⟩ 0x8456#16 = true := by decide
theorem test_witness_StepRuns : waiting.mode = .running ∧ fetch waiting = some 0xF20A#16 ∧
    decode 0xF20A#16 = .ok (.ldVxK 2#4) := by decide
theorem test_witness_Fetch : (startAt 4094).pc.toNat ≤ 4094 ∧ 4095 ≤ (startAt 4095).pc.toNat ∧
    (startAt 4095).mode = .running := by decide
theorem test_witness_Unrecognized : start.mode = .running ∧ fetch start = some 0x0000#16 ∧
    ∀ r ∈ opcodeRows, r.selects 0x0000#16 = false := by decide
theorem test_witness_HaltedIsAbsorbing : halted.mode = .halted ∧ (∀ rom, HostMove.cycleReq ≠ .resetLoad rom) ∧
    HostMove.cycleReq ≠ .resetLoadFailure := ⟨by decide, nofun, nofun⟩
/-- A running cycle that halts, and a blocked one: the wait ends at PC = 4094, where PC + 2 is no address. -/
theorem test_witness_FatalPrecise : start.mode ≠ .halted ∧ (∃ t, step start = .next t ∧ t.mode = .halted) ∧
    ((blocked.setPc 4094#16).setKeys 1#16).mode ≠ .halted ∧
    ∃ t, step ((blocked.setPc 4094#16).setKeys 1#16) = .next t ∧ t.mode = .halted :=
  ⟨by decide, ⟨_, rfl, by decide⟩, by decide, ⟨_, rfl, by decide⟩⟩
/-- A state that meets the invariant with memory listed, the mode blocked and the stack in use. -/
theorem test_witness_Inv : Inv (withStack blocked 1 0x1000#16) ∧ ∃ t, step (withStack blocked 1 0x1000#16) = .next t :=
  ⟨⟨by decide, by decide, by decide, by decide, by decide, by decide⟩, ⟨_, rfl⟩⟩
/-- A state that meets the invariant (`test_witness_Inv`) and a cycle from it; and both loads, of a ROM and failed, from a state
that does not meet it. -/
theorem test_witness_HostMoves : (∃ t, hostMove .cycleReq (withStack blocked 1 0x1000#16) = .next t) ∧
    ¬ Inv (startAt 0xFFFF) ∧ (∃ t, hostMove (.resetLoad [0x12]) (startAt 0xFFFF) = .next t) ∧
    ∃ t, hostMove .resetLoadFailure (startAt 0xFFFF) = .next t :=
  ⟨⟨_, rfl⟩, fun h => absurd h.pcRange (by decide), ⟨_, rfl⟩, ⟨_, rfl⟩⟩
theorem test_witness_BlockedReexecution : Inv blocked ∧ blocked.mode = .blockedOnKey 2#4 :=
  ⟨⟨by decide, by decide, by decide, by decide, by decide, by decide⟩, by decide⟩
/-- Each disjunct of the hypothesis, with a cycle that is not fatal and with one that is, and a halted state. -/
theorem test_witness_Timers :
    (waiting.mode = .running ∧ fetch waiting = some 0xF20A#16 ∧ decode 0xF20A#16 = .ok (.ldVxK 2#4) ∧
      ∃ u, exec (.ldVxK 2#4) waiting.beginCycle = .next u ∧ u.mode ≠ .halted) ∧
    (∃ u, exec .ret ((start.withFetchWord 16 0x00EE).beginCycle) = .next u ∧ u.mode = .halted) ∧
    fetch (start.withFetchWord 16 0x00EE) = some 0x00EE#16 ∧
    (blocked.mode = .blockedOnKey 2#4 ∧ ∃ u, keyWait 2#4 blocked.beginCycle = .next u ∧ u.mode ≠ .halted) ∧
    (∃ u, keyWait 2#4 (((blocked.setPc 4094#16).setKeys 1#16).beginCycle) = .next u ∧ u.mode = .halted) ∧
    halted.mode = .halted :=
  ⟨⟨by decide, by decide, by decide, ⟨_, rfl, by decide⟩⟩, ⟨_, rfl, by decide⟩, by decide,
    ⟨by decide, ⟨_, rfl, by decide⟩⟩, ⟨_, rfl, by decide⟩, by decide⟩
theorem test_witness_BlockedWaits : blocked.mode = .blockedOnKey 2#4 ∧ blocked.keys = 0#16 ∧
    (((blocked.setPc 4093#16).setKeys 0x8000#16).mode = .blockedOnKey 2#4 ∧
      ((blocked.setPc 4093#16).setKeys 0x8000#16).keys ≠ 0#16 ∧
      ((blocked.setPc 4093#16).setKeys 0x8000#16).pc.toNat ≤ 4093) := by decide
theorem test_witness_WritesOnly : (∃ t, exec (.storeRegs 2#4) (start.setI 0xFFD) = .next t ∧ t.mode = .running) ∧
    ∃ t, exec (.storeRegs 2#4) (start.setI 0xFFE) = .next t ∧ t.mode = .halted := ⟨⟨_, rfl, by decide⟩, ⟨_, rfl, by decide⟩⟩
theorem test_witness_RegistersWritten : (∃ t, exec (.loadRegs 0xE#4) start = .next t) ∧ ¬ writesReg (.loadRegs 0xE#4) 0xF#4 ∧
    (∃ t, exec (.addReg 1#4 2#4) start = .next t) ∧ ¬ writesReg (.addReg 1#4 2#4) 2#4 :=
  ⟨⟨_, rfl⟩, show ¬ (0xF#4).toNat ≤ (0xE#4).toNat by decide, ⟨_, rfl⟩, show ¬ (2#4 = 1#4 ∨ 2#4 = 0xF#4) by decide⟩
theorem test_witness_BytesWritten : (∃ t, exec (.storeRegs 0xF#4) (start.setI 0x300) = .next t) ∧
    0x2FF < (start.setI 0x300).addrI 0 ∧ (start.setI 0x300).addrI 0 + storedCount (.storeRegs 0xF#4) ≤ 0x310 ∧
    (start.setI 0x300).addrI 0 + storedCount (.ldB 0#4) ≤ 0x303 :=
  ⟨⟨_, rfl⟩, by decide, by decide, by decide⟩
theorem test_witness_OnlyTheKeyWait : (∃ t, step waiting = .next t ∧ t.mode = .blockedOnKey 2#4) ∧
    ∃ t, step blocked = .next t ∧ t.mode = .blockedOnKey 2#4 := ⟨⟨_, rfl, by decide⟩, ⟨_, rfl, by decide⟩⟩
theorem test_witness_CyclesKeep : ∃ t, step (waiting.setKeys 0x0080) = .next t := ⟨_, rfl⟩
/-- The same draw on a clear cell and on a lit one. -/
theorem test_witness_Cells : (∃ t, exec (.drw 0#4 0#4 1#4) start = .next t) ∧
    ∃ t, exec (.drw 0#4 0#4 1#4) { start with fb := Frame.toggle start.fb 0 0 } = .next t := ⟨⟨_, rfl⟩, ⟨_, rfl⟩⟩
theorem test_witness_Call : (withStack start 15 0#16).sp.val < 16 := by decide
theorem test_witness_Return : 0 < (withStack start 1 4095#16).sp.val ∧ (withStack start 1 4095#16).returnAddress ≤ 4095 ∧
    0 < (withStack start 16 0#16).sp.val ∧ (withStack start 16 0#16).returnAddress ≤ 4095 := by decide
theorem test_witness_CallReturn : (withStack (startAt 4093) 15 0#16).sp.val < 16 ∧
    (withStack (startAt 4093) 15 0#16).pc.toNat ≤ 4093 := by decide
theorem test_witness_StackFaults : (withStack start 16 0#16).sp.val = 16 ∧ start.sp.val = 0 ∧
    0 < (withStack start 1 4096#16).sp.val ∧ 4095 < (withStack start 1 4096#16).returnAddress := by decide
theorem test_witness_IndexedJump : (0xFFE#12).toNat + ((start.setV 0 1).getV 0#4).toNat ≤ 4095 ∧
    4095 < (0xFFF#12).toNat + ((start.setV 0 1).getV 0#4).toNat := by decide
/-- Taken at 4091 and not taken at 4093, for the equal and the unequal skip. -/
theorem test_witness_ImmediateSkips :
    skipTarget (startAt 4091) ((startAt 4091).getV 1 = 0#8) ≤ 4095 ∧ skipTarget (startAt 4093) ((startAt 4093).getV 1 = 1#8) ≤ 4095 ∧
    skipTarget (startAt 4091) ((startAt 4091).getV 1 ≠ 1#8) ≤ 4095 ∧
    skipTarget (startAt 4093) ((startAt 4093).getV 1 ≠ 0#8) ≤ 4095 := by decide
theorem test_witness_RegisterSkips :
    skipTarget (startAt 4091) ((startAt 4091).getV 1 = (startAt 4091).getV 2) ≤ 4095 ∧
    skipTarget ((startAt 4093).setV 1 1) (((startAt 4093).setV 1 1).getV 1 = ((startAt 4093).setV 1 1).getV 2) ≤ 4095 ∧
    skipTarget ((startAt 4091).setV 1 1) (((startAt 4091).setV 1 1).getV 1 ≠ ((startAt 4091).setV 1 1).getV 2) ≤ 4095 ∧
    skipTarget (startAt 4093) ((startAt 4093).getV 1 ≠ (startAt 4093).getV 2) ≤ 4095 := by decide
/-- The clauses of PcWritesAbove4095Fault: plain advance, a memory operand in range, N = 0, each skip, the end of a wait. -/
theorem test_witness_PcWrites :
    plainAdvance (.ldImm 0#4 0#8) = true ∧ 4094 ≤ (startAt 4094).pc.toNat ∧
    lastOperand (.storeRegs 0#4) ((startAt 4094).setI 0xFFF) = some 4095 ∧
    4095 < skipTarget (startAt 4092) ((startAt 4092).getV 1 = 0#8) ∧
    4095 < skipTarget (startAt 4092) ((startAt 4092).getV 1 ≠ 1#8) ∧
    4095 < skipTarget (startAt 4092) ((startAt 4092).getV 1 = (startAt 4092).getV 2) ∧
    4095 < skipTarget ((startAt 4092).setV 1 1) (((startAt 4092).setV 1 1).getV 1 ≠ ((startAt 4092).setV 1 1).getV 2) ∧
    4095 < skipTarget (startAt 4094) ((startAt 4094).getV 1 = 1#8) ∧
    ((startAt 4094).setKeys 1).keys ≠ 0#16 ∧ 4094 ≤ ((startAt 4094).setKeys 1).pc.toNat := by decide
/-- `pc ≤ 4093` at its end, with operands other than VF: the statements of 43_alu.md, 44_index_memory.md R150 to R152, 00E0, timers. -/
theorem test_witness_PlainAdvance : (startAt 4093).pc.toNat ≤ 4093 ∧ (0xE#4 : RegIdx) ≠ 0xF#4 := by decide
theorem test_witness_Bcd : ((startAt 4093).setI 0xFFD).pc.toNat ≤ 4093 ∧ ((startAt 4093).setI 0xFFD).i.toNat + 2 ≤ 4095 := by decide
theorem test_witness_StoreLoad : ((startAt 4093).setI 0xFF0).pc.toNat ≤ 4093 ∧
    ((startAt 4093).setI 0xFF0).i.toNat + (0xF#4).toNat ≤ 4095 := by decide
theorem test_witness_MemoryOperand :
    lastOperand (.drw 0#4 0#4 0xF#4) (start.setI 0xFF2) = some 4096 ∧ lastOperand (.ldB 0#4) (start.setI 0xFFE) = some 4096 ∧
    lastOperand (.storeRegs 0xF#4) (start.setI 0xFF1) = some 4096 ∧
    lastOperand (.loadRegs 0#4) (start.setI 0xFFFF) = some 65535 := by decide
theorem test_witness_StoredFetched : start.pc.toNat ≤ 4093 ∧ (start.setI 0xFF0).i.toNat + (0xF#4).toNat ≤ 4095 ∧ 14 < (0xF#4).toNat := by
  decide
/-- DXYN with its last row at 4095, and with N = 0 (no operand) for an I above memory. -/
theorem test_witness_Draw : ((startAt 4093).setI 0xFF1).pc.toNat ≤ 4093 ∧
    lastOperand (.drw 1#4 2#4 0xF#4) ((startAt 4093).setI 0xFF1) = some 4095 ∧
    lastOperand (.drw 1#4 2#4 0#4) ((startAt 4093).setI 0x1000) = none ∧ (1#4 : RegIdx) ≠ 0xF#4 ∧ (2#4 : RegIdx) ≠ 0xF#4 := by decide
theorem test_witness_KeySkips :
    (((startAt 4091).setV 5 15).getV 5).toNat ≤ 15 ∧
    skipTarget (((startAt 4091).setV 5 15).setKeys 0x8000) ((((startAt 4091).setV 5 15).setKeys 0x8000).keys.getLsbD 15 = true) ≤ 4095 ∧
    skipTarget ((startAt 4093).setV 5 15) (((startAt 4093).setV 5 15).keys.getLsbD 15 = true) ≤ 4095 ∧
    skipTarget ((startAt 4091).setV 5 15) (((startAt 4091).setV 5 15).keys.getLsbD 15 = false) ≤ 4095 := by decide
theorem test_witness_KeySkipFaults : 15 < ((start.setV 5 16).getV 5).toNat ∧
    4095 < skipTarget ((startAt 4092).setKeys 1) (((startAt 4092).setKeys 1).keys.getLsbD ((startAt 4092).getV 5).toNat = true) ∧
    4095 < skipTarget (startAt 4092) ((startAt 4092).keys.getLsbD ((startAt 4092).getV 5).toNat = false) ∧
    ((startAt 4092).getV 5).toNat ≤ 15 := by decide
theorem test_witness_KeyWait : start.keys = 0#16 ∧ ((startAt 4093).setKeys 0x8000).keys ≠ 0#16 ∧
    ((startAt 4093).setKeys 0x8000).pc.toNat ≤ 4093 := by decide
theorem test_witness_Load : ([] : List Byte).length ≤ 3584 ∧ (List.replicate 3584 (1#8 : Byte)).length ≤ 3584 :=
  ⟨by decide, List.length_replicate.le⟩
/-- Both disjuncts of RejectedLoadsHalt. -/
theorem test_witness_RejectedLoads :
    (∃ rom : List Byte, 3584 < rom.length ∧ HostMove.resetLoad (List.replicate 3585 0#8) = .resetLoad rom ∧
      some 3585 = some rom.length) ∧
    ∃ t, hostMove .resetLoadFailure halted = .next t ∧
      t.fault = some { kind := .romLoadFailure, word := none, pc := none, romLength := none } :=
  ⟨⟨_, (List.length_replicate (n := 3585)).ge, rfl, congrArg some (List.length_replicate (n := 3585)).symm⟩, ⟨_, rfl, rfl⟩⟩
/-- A 00E0 on a lit screen; and a cycle and a key move, neither an acknowledge nor a reset, with the flag 1. -/
theorem test_witness_Redraw :
    (∃ t, hostMove .cycleReq ((withCell start 63 31).withFetchWord 16 0x00E0) = .next t ∧
      Frame.cell t.fb 63 31 ≠ Frame.cell ((withCell start 63 31).withFetchWord 16 0x00E0).fb 63 31) ∧
    ({ waiting with redrawPending := true } : State).redrawPending = true ∧
    (∃ t, hostMove .cycleReq { waiting with redrawPending := true } = .next t) ∧
    (∃ t, hostMove (.keysIn 1#16) { waiting with redrawPending := true } = .next t) ∧
    HostMove.keysIn 1#16 ≠ .redrawAck ∧ (∀ rom, HostMove.keysIn 1#16 ≠ .resetLoad rom) ∧
    HostMove.keysIn 1#16 ≠ .resetLoadFailure :=
  ⟨⟨_, rfl, by decide⟩, rfl, ⟨_, rfl⟩, ⟨_, rfl⟩, nofun, nofun, nofun⟩

end Sys2Proof.Tests
end

section
/-! SUPPORT. What an execute stage and a cycle can do, said once (family 10_state.md). -/

namespace Sys2Proof.Safety

open Sys2Proof.Machine

/-! The outcomes of an execute stage -/

/-- What `i` writes besides PC when it completes (the instruction rules of 41_flow.md to 46_keys_timers.md). -/
def effect (i : Instr) (s : State) : State :=
  match i with
  | .cls => s.setFb (Vector.replicate 32 0#64)
  | .ret => s.popped
  | .call _ => if h : s.sp.val < 16 then s.pushed (s.pc + 2#16) h else s
  | .jp _ | .jpV0 _ => s
  | .seImm _ _ | .sneImm _ _ | .seReg _ _ | .sneReg _ _ | .skp _ | .sknp _ => s
  | .ldImm x nn => s.setV x nn
  | .addImm x nn => s.setV x (s.getV x + nn)
  | .ldReg x y => s.setV x (s.getV y)
  | .orReg x y => s.setV x (s.getV x ||| s.getV y)
  | .andReg x y => s.setV x (s.getV x &&& s.getV y)
  | .xorReg x y => s.setV x (s.getV x ^^^ s.getV y)
  | .addReg x y => (s.setV x (s.getV x + s.getV y)).setV vf (flagByte (carryOut (s.getV x) (s.getV y)))
  | .subReg x y => (s.setV x (s.getV x - s.getV y)).setV vf (flagByte (noBorrow (s.getV x) (s.getV y)))
  | .shr x _ => (s.setV x (s.getV x >>> 1)).setV vf (flagByte (lsbOf (s.getV x)))
  | .subn x y => (s.setV x (s.getV y - s.getV x)).setV vf (flagByte (noBorrow (s.getV y) (s.getV x)))
  | .shl x _ => (s.setV x (s.getV x <<< 1)).setV vf (flagByte (msbOf (s.getV x)))
  | .rnd x nn => (s.setV x (Config.randByte s.draws &&& nn)).tookDraw
  | .drw x y n => (s.setFb (drawSprite x y n s).1).setV vf (flagByte (drawSprite x y n s).2)
  | .ldI nnn => s.setI (zextAddr nnn)
  | .addI x => s.setI (s.i + zextByte (s.getV x))
  | .ldF x => s.setI (BitVec.ofNat 16 ((s.getV x).toNat * 5))
  | .ldVxDt x => s.setV x s.dt
  | .ldVxK x =>
    ((s.setV x ((chooseKey s.keys (Config.keyChoice s.draws)).setWidth 8)).setMode .running).tookDraw
  | .ldDtVx x => s.setDt (s.getV x)
  | .ldStVx x => s.setSt (s.getV x)
  | .ldB x => s.writeBytes (s.addrI 0) (bcdDigits (s.getV x))
  | .storeRegs x => s.writeBytes (s.addrI 0) (s.getVs x)
  | .loadRegs x => s.setVs (s.readBytes (s.addrI 0) (x.toNat + 1))

/-- No operand of `i` lies above memory (20_memory.md R54). -/
def OperandsInMemory (i : Instr) (s : State) : Prop := ∀ a, lastOperand i s = some a → a ≤ 4095

/-- The three ways an execute stage of `i` can end: a fatal condition, the start of a key wait, or completion, with
operands in memory and PC within 0 to 4095. -/
inductive ExecOutcome (i : Instr) (s : State) : Result → Prop where
  | fatal (kind : FatalKind) : ExecOutcome i s (.next (takeFatal kind (some (encode i)) s))
  | waits (x : RegIdx) (hi : i = .ldVxK x) (hkeys : s.keys = 0#16) :
      ExecOutcome i s (.next (s.setMode (.blockedOnKey x)))
  | completes (a : Nat) (ha : a ≤ 4095) (hop : OperandsInMemory i s) :
      ExecOutcome i s (.next ((effect i s).setPc (BitVec.ofNat 16 a)))

theorem execOutcome_writePc {i : Instr} {s : State} (t : Nat) (hop : OperandsInMemory i s) :
    ExecOutcome i s (writePc i s t (effect i s)) := by
  obtain ⟨ht, h⟩ | ⟨_, h⟩ := writePc_cases i s (effect i s) t <;> rw [h]
  · exact .completes t ht hop
  · exact .fatal _

theorem execOutcome_checkAddr {i : Instr} {s : State} {last : Nat} {k : Result}
    (h : last ≤ 4095 → ExecOutcome i s k) : ExecOutcome i s (checkAddr i s last k) := by
  rcases Nat.lt_or_ge 4095 last with hl | hl
  · rw [checkAddr_fatal i s k hl]
    exact .fatal _
  · rw [checkAddr_ok i s k hl]
    exact h hl

theorem execOutcome_keySkip {i : Instr} {s : State} (x : RegIdx) (pressed : Bool) (heff : effect i s = s)
    (hop : OperandsInMemory i s) : ExecOutcome i s (keySkip i x pressed s) := by
  unfold keySkip
  cases s.keyIndex x with
  | none => exact .fatal _
  | some k =>
    have h := execOutcome_writePc (s.pc.toNat + if s.keyPressed k == pressed then 4 else 2) hop
    rwa [heff] at h

theorem execOutcome_keyWait (x : RegIdx) (s : State) : ExecOutcome (.ldVxK x) s (keyWait x s) := by
  by_cases hkeys : s.keys = 0#16
  · rw [keyWait_none x hkeys]
    exact .waits x rfl hkeys
  · rw [keyWait_some x hkeys]
    exact execOutcome_writePc _ nofun

/-- All that an execute stage can do. -/
theorem exec_outcome (i : Instr) (s : State) : ExecOutcome i s (exec i s) := by
  cases i with
  | ret =>
    rw [show exec .ret s = execRet s from rfl, execRet]
    split
    · exact .fatal _
    · exact execOutcome_writePc _ nofun
  | call nnn =>
    rw [show exec (.call nnn) s = execCall nnn s from rfl, execCall]
    split
    case isTrue h =>
      have heff : effect (.call nnn) s = s.pushed (s.pc + 2#16) h := dif_pos h
      rw [← heff]
      exact execOutcome_writePc _ nofun
    case isFalse => exact .fatal _
  | skp x => exact execOutcome_keySkip x true rfl nofun
  | sknp x => exact execOutcome_keySkip x false rfl nofun
  | ldVxK x => exact execOutcome_keyWait x s
  | drw x y n =>
    refine execOutcome_checkAddr fun hlast => execOutcome_writePc _ fun a ha => ?_
    by_cases hn : n = 0#4
    · simp [lastOperand, hn] at ha
    · have hpos : n.toNat ≠ 0 := fun e => hn (BitVec.eq_of_toNat_eq e)
      simp only [lastOperand, hn, hpos, State.addrI, if_false, Option.some.injEq] at ha hlast
      omega
  | ldB x => exact execOutcome_checkAddr fun hlast => execOutcome_writePc _ fun a ha => Option.some.inj ha ▸ hlast
  | storeRegs x =>
    exact execOutcome_checkAddr fun hlast => execOutcome_writePc _ fun a ha => Option.some.inj ha ▸ hlast
  | loadRegs x =>
    exact execOutcome_checkAddr fun hlast => execOutcome_writePc _ fun a ha => Option.some.inj ha ▸ hlast
  | _ => exact execOutcome_writePc _ nofun

/-- The same, of the next state that an execute stage answers. -/
theorem exec_next_outcome {i : Instr} {s t : State} (h : exec i s = .next t) : ExecOutcome i s (.next t) :=
  h ▸ exec_outcome i s

/-! What a completing instruction leaves as it was -/

theorem effect_sameBut (i : Instr) (s : State) : SameBut (writtenBy i) s (effect i s) := by
  cases i with
  | cls => exact sameBut_setFb s _
  | ret => exact sameBut_popped s
  | call nnn =>
    by_cases h : s.sp.val < 16
    · rw [effect, dif_pos h]
      exact sameBut_pushed s _ h
    · rw [effect, dif_neg h]
      exact fun p _ => Same.refl p s
  | ldI _ | addI _ | ldF _ => exact sameBut_setI s _
  | ldImm x _ | addImm x _ | ldReg x _ | orReg x _ | andReg x _ | xorReg x _ | ldVxDt x => exact sameBut_setV s x _
  | addReg x _ | subReg x _ | shr x _ | subn x _ | shl x _ =>
    exact ((sameBut_setV s x _).trans (sameBut_setV _ vf _)).mono (by simp [writtenBy])
  | rnd x _ => exact (sameBut_setV s x _).trans (sameBut_tookDraw _)
  | drw _ _ _ => exact ((sameBut_setFb s _).trans (sameBut_setV _ vf _)).mono (by simp [writtenBy])
  | ldVxK x => exact ((sameBut_setV s x _).trans (sameBut_setMode _ _)).trans (sameBut_tookDraw _)
  | ldDtVx _ => exact sameBut_setDt s _
  | ldStVx _ => exact sameBut_setSt s _
  | ldB _ | storeRegs _ => exact sameBut_writeBytes s _ _
  | loadRegs _ => exact sameBut_setVs s _
  | _ => exact fun p _ => Same.refl p s

theorem getV_effect {i : Instr} {y : RegIdx} (h : ¬ writesReg i y) (s : State) :
    (effect i s).getV y = s.getV y := by
  cases i with
  | ldImm _ _ | addImm _ _ | ldReg _ _ | orReg _ _ | andReg _ _ | xorReg _ _ | ldVxDt _ | rnd _ _ | ldVxK _ =>
    exact State.getV_setV_ne s h _
  | addReg _ _ | subReg _ _ | shr _ _ | subn _ _ | shl _ _ =>
    obtain ⟨hx, hvf⟩ := not_or.1 h
    exact (State.getV_setV_ne _ hvf _).trans (State.getV_setV_ne s hx _)
  | drw _ _ _ => exact State.getV_setV_ne _ h _
  | loadRegs x =>
    rw [effect, State.getV_setVs, List.getD_eq_default]
    have : ¬ y.toNat ≤ x.toNat := h
    rw [State.readBytes_length]
    omega
  | _ => exact effect_sameBut _ s .v (by simp [writtenBy]) y

/-- No execute stage writes the keys or the parameter FONT (10_state.md R32, R38). -/
theorem exec_keys_font {i : Instr} {s t : State} (h : exec i s = .next t) : t.keys = s.keys ∧ t.font = s.font := by
  cases exec_next_outcome h with
  | fatal kind => exact ⟨rfl, rfl⟩
  | waits x _ _ => exact ⟨rfl, rfl⟩
  | completes a _ _ =>
    exact ⟨effect_sameBut i s .keys (by cases i <;> simp [writtenBy]),
      effect_sameBut i s .font (by cases i <;> simp [writtenBy])⟩

/-! The outcomes of a cycle -/

theorem step_running {s : State} {w : Word} {i : Instr} (hmode : s.mode = .running) (hfetch : fetch s = some w)
    (hdecode : decode w = .ok i) : step s = endCycle (exec i s.beginCycle) := by
  simp [step, hmode, hfetch, hdecode]

/-- A cycle's next state is the execute stage's, or that after the timer tick. -/
theorem endCycle_next {r : Result} {t : State} (h : endCycle r = .next t) :
    ∃ u, r = .next u ∧ (t = u ∨ t = timerTick u) := by
  cases r with
  | next u =>
    refine ⟨u, rfl, ?_⟩
    by_cases hmode : u.mode = .halted
    · exact .inl (Host.Outcome.next.inj ((endCycle_halted hmode).symm.trans h)).symm
    · exact .inr (Host.Outcome.next.inj ((endCycle_ticks hmode).symm.trans h)).symm
  | fault f => cases h
  | refused q => cases h

/-- The cycle of `s` runs the execute stage of `i`: the decoded instruction in mode Running, the waiting FX0A while
blocked. -/
inductive Runs (i : Instr) (s : State) : Prop where
  | fetched (w : Word) (hmode : s.mode = .running) (hfetch : fetch s = some w) (hdecode : decode w = .ok i)
  | waiting (x : RegIdx) (hmode : s.mode = .blockedOnKey x) (hi : i = .ldVxK x)

/-- The three ways a cycle can go (40_cycle.md R92 to R94). -/
theorem step_cases (s : State) :
    (s.mode = .halted ∧ step s = .next s.beginCycle) ∨
    (s.mode = .running ∧ ∃ kind, step s = .next (takeFatal kind (fetch s) s.beginCycle)) ∨
    ∃ i, Runs i s ∧ step s = endCycle (exec i s.beginCycle) := by
  cases hmode : s.mode with
  | halted => exact .inl ⟨rfl, step_halted hmode⟩
  | blockedOnKey x => exact .inr (.inr ⟨.ldVxK x, .waiting x hmode rfl, step_blocked hmode⟩)
  | running =>
    cases hfetch : fetch s with
    | none => exact .inr (.inl ⟨rfl, _, step_fetch_fatal hmode hfetch⟩)
    | some w =>
      cases hdecode : decode w with
      | error e => exact .inr (.inl ⟨rfl, _, step_decode_fatal hmode hfetch hdecode⟩)
      | ok i => exact .inr (.inr ⟨i, .fetched w hmode hfetch hdecode, step_running hmode hfetch hdecode⟩)

/-! The word of the key wait -/

theorem word_eq_fields (w : Word) : w = (fields w).op ++ (fields w).x ++ (fields w).nn := by
  apply BitVec.eq_of_getLsbD_eq
  intro k hk
  simp only [fields, BitVec.getLsbD_append, BitVec.getLsbD_extractLsb']
  by_cases h8 : k < 8
  · simp [h8]
  · by_cases h12 : k - 8 < 4
    · simp [h8, h12, show 8 + (k - 8) = k by omega]
    · simp [h8, h12, show k - 8 - 4 < 4 by omega, show 12 + (k - 8 - 4) = k by omega]

theorem decode_encode_ldVxK (x : RegIdx) : decode (encode (.ldVxK x)) = .ok (.ldVxK x) := by
  obtain ⟨hop, hx, hnn⟩ := fields_xnn 0xF#4 x 0x0A#8
  simp [decode, encode, hop, hx, hnn]

/-- Only a word FX0A decodes to FX0A. -/
theorem encode_ldVxK_of_decode {w : Word} {x : RegIdx} (h : decode w = .ok (.ldVxK x)) : w = encode (.ldVxK x) := by
  have hf : (fields w).op.toNat = 0xF ∧ (fields w).nn.toNat = 0x0A ∧ (fields w).x = x := by
    simp only [decode] at h
    repeat' split at h
    all_goals simp_all
  obtain ⟨hop, hnn, hx⟩ := hf
  rw [word_eq_fields w, hx, show (fields w).op = 0xF#4 from BitVec.eq_of_toNat_eq hop,
    show (fields w).nn = 0x0A#8 from BitVec.eq_of_toNat_eq hnn, encode]

/-- A key wait does not look at the mode it is run in. -/
theorem keyWait_setMode (x : RegIdx) (m : Mode) (s : State) : keyWait x (s.setMode m) = keyWait x s := by
  by_cases hkeys : s.keys = 0#16
  · rw [keyWait_none x (s := s.setMode m) hkeys, keyWait_none x hkeys]
    rfl
  · rw [keyWait_some x (s := s.setMode m) hkeys, keyWait_some x hkeys]
    rfl

end Sys2Proof.Safety
end

section
/-! SUPPORT. The machine invariant under each update, and under a completing instruction (10_state.md R44). -/

namespace Sys2Proof.Safety

open Sys2Proof.Machine

/-! The updates -/

theorem Inv.beginCycle {s : State} (h : Inv s) : Inv s.beginCycle :=
  ⟨h.memWf, h.memRange, h.pcRange, h.stackRange, h.faultMode, h.blockedWord⟩

theorem Inv.timerTick {s : State} (h : Inv s) : Inv (timerTick s) :=
  ⟨h.memWf, h.memRange, h.pcRange, h.stackRange, h.faultMode, h.blockedWord⟩

theorem Inv.takeFatal {s : State} (h : Inv s) (kind : FatalKind) (w : Option Word) : Inv (takeFatal kind w s) where
  memWf := h.memWf
  memRange := h.memRange
  pcRange := h.pcRange
  stackRange := h.stackRange
  faultMode := by simp
  blockedWord := by simp

/-- A machine that is not Halted may turn to any mode but Halted, if it blocks only at the FX0A it waits in. -/
theorem Inv.setMode {s : State} (h : Inv s) (hmode : s.mode ≠ .halted) {m : Mode} (hm : m ≠ .halted)
    (hword : ∀ x, m = .blockedOnKey x → fetch s = some (encode (.ldVxK x))) : Inv (s.setMode m) where
  memWf := h.memWf
  memRange := h.memRange
  pcRange := h.pcRange
  stackRange := h.stackRange
  faultMode := ⟨fun e => absurd e hm, fun e => absurd (h.faultMode.2 e) hmode⟩
  blockedWord := hword

/-! The effect of a completing instruction, piece by piece -/

theorem effect_memWf (i : Instr) {s : State} (h : Memory.wf s.font s.mem) :
    Memory.wf (effect i s).font (effect i s).mem := by
  cases i with
  | ldB _ | storeRegs _ => exact State.writeBytes_wf h _ _
  | call _ =>
    rw [effect]
    split <;> exact h
  | _ => exact h

theorem effect_memRange {i : Instr} {s : State} (h : ∀ c ∈ s.mem, c.1 ≤ 4095) (hop : OperandsInMemory i s) :
    ∀ c ∈ (effect i s).mem, c.1 ≤ 4095 := by
  cases i with
  | ldB x =>
    have hlast : s.i.toNat + 2 ≤ 4095 := hop _ rfl
    exact State.writeBytes_range h (by simp only [bcdDigits, List.length_cons, List.length_nil, State.addrI]; omega)
  | storeRegs x =>
    have hlast : s.i.toNat + x.toNat ≤ 4095 := hop _ rfl
    exact State.writeBytes_range h (by rw [State.getVs_length, State.addrI]; omega)
  | call _ =>
    rw [effect]
    split <;> exact h
  | _ => exact h

/-- Only a call adds a stack entry in use, and it pushes PC + 2 (41_flow.md R112; log 14). -/
theorem effect_stackRange (i : Instr) {s : State} (h : ∀ k, k < s.sp.val → (s.stackAt k).toNat ≤ 4096)
    (hpc : s.pc.toNat ≤ 4094) : ∀ k, k < (effect i s).sp.val → ((effect i s).stackAt k).toNat ≤ 4096 := by
  cases i with
  | ret => exact fun k hk => h k (Nat.lt_of_lt_of_le hk (Nat.sub_le _ _))
  | call _ =>
    rw [effect]
    split
    case isFalse => exact h
    case isTrue hsp =>
      intro k hk
      rcases Nat.lt_succ_iff_lt_or_eq.1 hk with hlt | rfl
      · rw [State.stackAt_pushed_ne s _ hsp (Nat.ne_of_lt hlt)]
        exact h k hlt
      · rw [State.stackAt_pushed_self, BitVec.toNat_add]
        exact Nat.le_trans (Nat.mod_le _ _) (Nat.add_le_add_right hpc 2)
  | ldB _ | storeRegs _ => simpa [effect, State.stackAt] using h
  | _ => exact h

theorem effect_fault (i : Instr) (s : State) : (effect i s).fault = s.fault :=
  effect_sameBut i s .fault (by cases i <;> simp [writtenBy])

/-- A completing instruction leaves a Running machine Running: the one that writes the mode, FX0A, writes Running. -/
theorem effect_mode_running (i : Instr) {s : State} (h : s.mode = .running) : (effect i s).mode = .running := by
  by_cases hi : ∃ x, i = .ldVxK x
  · obtain ⟨x, rfl⟩ := hi
    rfl
  · have hmode : .mode ∉ writtenBy i := by cases i <;> simp_all [writtenBy]
    exact Eq.trans (effect_sameBut i s .mode hmode) h

theorem Inv.complete {i : Instr} {s : State} (h : Inv s) (hpc : s.pc.toNat ≤ 4094) (hmode : s.mode ≠ .halted)
    (hrun : (effect i s).mode = .running) (hop : OperandsInMemory i s) {a : Nat} (ha : a ≤ 4095) :
    Inv ((effect i s).setPc (BitVec.ofNat 16 a)) where
  memWf := effect_memWf i h.memWf
  memRange := effect_memRange h.memRange hop
  pcRange := by
    rw [State.setPc_pc, BitVec.toNat_ofNat]
    exact Nat.le_trans (Nat.mod_le _ _) ha
  stackRange := effect_stackRange i h.stackRange hpc
  faultMode := by
    have hfault : s.fault.isSome = false := by simpa using fun e => hmode (h.faultMode.2 e)
    simp [hrun, effect_fault, hfault]
  blockedWord := by simp [hrun]

/-! A cycle that runs an execute stage -/

theorem Runs.not_halted {i : Instr} {s : State} (h : Runs i s) : s.mode ≠ .halted := by
  cases h with
  | fetched _ hmode => simp [hmode]
  | waiting _ hmode => simp [hmode]

theorem Runs.fetch_isSome {i : Instr} {s : State} (h : Runs i s) (hinv : Inv s) : (fetch s).isSome = true := by
  cases h with
  | fetched w _ hfetch => simp [hfetch]
  | waiting x hmode => simp [hinv.blockedWord x hmode]

theorem Runs.pc_le {i : Instr} {s : State} (h : Runs i s) (hinv : Inv s) : s.pc.toNat ≤ 4094 := by
  by_contra hgt
  have := h.fetch_isSome hinv
  rw [fetch_none (by omega)] at this
  exact absurd this (by decide)

theorem Runs.fetch_keyWait {x : RegIdx} {s : State} (h : Runs (.ldVxK x) s) (hinv : Inv s) :
    fetch s = some (encode (.ldVxK x)) := by
  cases h with
  | fetched w _ hfetch hdecode => rw [hfetch, encode_ldVxK_of_decode hdecode]
  | waiting y hmode hi => rw [hinv.blockedWord y hmode, hi]

/-- A completed instruction leaves the machine Running, a key wait that ended included (46_keys_timers.md R173). -/
theorem Runs.effect_mode {i : Instr} {s : State} (h : Runs i s) : (effect i s.beginCycle).mode = .running := by
  cases h with
  | waiting x _ hi => rw [hi]; rfl
  | fetched _ hmode => exact effect_mode_running i hmode

/-- Such a cycle keeps the invariant, however its execute stage ends. -/
theorem Inv.runs {i : Instr} {s t : State} (hinv : Inv s) (hrun : Runs i s)
    (h : endCycle (exec i s.beginCycle) = .next t) : Inv t := by
  have hout := exec_outcome i s.beginCycle
  generalize exec i s.beginCycle = r at h hout
  cases hout with
  | fatal kind =>
    rw [endCycle_halted rfl] at h
    cases h
    exact hinv.beginCycle.takeFatal _ _
  | waits x hi _ =>
    rw [endCycle_ticks (by simp)] at h
    cases h
    subst hi
    refine (hinv.beginCycle.setMode hrun.not_halted (by simp) fun y hy => ?_).timerTick
    rw [fetch_beginCycle, hrun.fetch_keyWait hinv, Mode.blockedOnKey.inj hy]
  | completes a ha hop =>
    rw [endCycle_ticks (by simp [hrun.effect_mode])] at h
    cases h
    exact (hinv.beginCycle.complete (hrun.pc_le hinv) hrun.not_halted hrun.effect_mode hop ha).timerTick

end Sys2Proof.Safety
end

section
/-! SUPPORT. The framebuffer output by index, and memory after reset. -/

namespace Sys2Proof.Machine

/-- Where every row has `n` entries, entry `x` of row `y` stands at `n * y + x` of the rows put end to end. -/
theorem getElem?_flatMap_rows {α β : Type} (f : α → List β) {n : Nat} (hf : ∀ a, (f a).length = n) (rows : List α)
    (y : Nat) {x : Nat} (hx : x < n) : (rows.flatMap f)[n * y + x]? = rows[y]?.bind fun a => (f a)[x]? := by
  induction rows generalizing y with
  | nil => rfl
  | cons a rows ih =>
    rw [List.flatMap_cons]
    cases y with
    | zero => simp [List.getElem?_append_left, hf a, hx]
    | succ y =>
      rw [List.getElem?_append_right (by rw [hf a, Nat.mul_succ]; omega), hf a,
        show n * (y + 1) + x - n = n * y + x by rw [Nat.mul_succ]; omega, ih]
      simp

theorem State.reset_readByte (a : Nat) : State.reset.readByte a = Memory.unlisted fontDefault a := rfl

end Sys2Proof.Machine
end

section
/-! The obligations of the family 10_state.md. -/

namespace Sys2Proof.Proofs

open Sys2Proof.Machine Sys2Proof.Safety

/-- Settles O13: a cycle in mode Halted only clears the event, a fatal condition before the execute stage changes mode and
record together, and the rest is `Inv.runs`. -/
theorem everyStepKeepsInv : Obligations.EveryStepKeepsInv := by
  intro s t hinv hstep
  obtain ⟨_, h⟩ | ⟨_, kind, h⟩ | ⟨i, hrun, h⟩ := step_cases s
  · cases h.symm.trans hstep
    exact hinv.beginCycle
  · cases h.symm.trans hstep
    exact hinv.beginCycle.takeFatal kind _
  · exact hinv.runs hrun (h.symm.trans hstep)

/-- Settles O16: under the invariant the word at PC is the waiting FX0A, and its key wait does not look at the mode. -/
theorem blockedCycleIsReexecution : Obligations.BlockedCycleIsReexecution := by
  intro s x hinv hmode
  have hfetch : fetch (s.setMode .running) = some (encode (.ldVxK x)) := hinv.blockedWord x hmode
  calc step s
    _ = endCycle (keyWait x s.beginCycle) := step_blocked hmode
    _ = endCycle (keyWait x (s.beginCycle.setMode .running)) := by rw [keyWait_setMode]
    _ = endCycle (exec (.ldVxK x) (s.setMode .running).beginCycle) := rfl
    _ = step (s.setMode .running) := (step_running rfl hfetch (decode_encode_ldVxK x)).symm

/-- Settles O19, by the outcomes of an execute stage. -/
theorem everyInstructionWritesOnlyItsPieces : Obligations.EveryInstructionWritesOnlyItsPieces := by
  intro i s t hexec
  cases exec_next_outcome hexec with
  | fatal kind => exact .inr ⟨kind, takeFatal_faulted kind _ s⟩
  | waits x hi _ =>
    subst hi
    exact .inl ((sameBut_setMode s _).mono (by simp [writtenBy]))
  | completes a _ _ => exact .inl ((effect_sameBut i s).setPc _)

/-- Settles O20, by the outcomes of an execute stage. -/
theorem registersWrittenByEachInstruction : Obligations.RegistersWrittenByEachInstruction := by
  intro i s t y hexec hy
  cases exec_next_outcome hexec with
  | fatal kind => rfl
  | waits x _ _ => rfl
  | completes a _ _ => exact getV_effect hy s

/-- Settles O23: neither piece is among those that an instruction, a fatal condition or the timer tick writes. -/
theorem cyclesKeepKeysAndFont : Obligations.CyclesKeepKeysAndFont := by
  intro s t hstep
  obtain ⟨_, h⟩ | ⟨_, kind, h⟩ | ⟨i, _, h⟩ := step_cases s
  · cases h.symm.trans hstep
    exact ⟨rfl, rfl⟩
  · cases h.symm.trans hstep
    exact ⟨rfl, rfl⟩
  · obtain ⟨u, hexec, hu⟩ := endCycle_next (h.symm.trans hstep)
    have hkept : u.keys = s.beginCycle.keys ∧ u.font = s.beginCycle.font := exec_keys_font hexec
    rcases hu with rfl | rfl <;> exact hkept

/-- Settles O51: `fbOut` puts 32 rows of 64 cells end to end. -/
theorem framebufferOutputIsRowMajor : Obligations.FramebufferOutputIsRowMajor := by
  intro s
  constructor
  · simp [State.fbOut, List.length_flatMap]
  · intro x y hx hy
    rw [State.fbOut, getElem?_flatMap_rows _ (by simp) _ _ hx]
    simp [Frame.cell, hx, hy]

/-- Settles O14: reset lists no byte, uses no stack entry and is Running. -/
theorem resetMeetsInv : Obligations.ResetMeetsInv where
  memWf := reset_mem_wf
  memRange := nofun
  pcRange := by decide
  stackRange := nofun
  faultMode := by decide
  blockedWord := nofun

/-- Settles O29: each condition is the guard of its fatal branch in `execCall`, `execRet` or the PC write. -/
theorem stackFaults : Obligations.StackFaults := by
  intro nnn s
  refine ⟨fun hsp => ?_, fun hsp => ?_, fun hsp haddr => ?_⟩
  · exact ⟨_, dif_neg (by omega), takeFatal_faulted _ _ s⟩
  · exact ⟨_, if_pos hsp, takeFatal_faulted _ _ s⟩
  · exact ⟨_, (if_neg (by omega)).trans (writePc_fatal _ _ _ haddr), takeFatal_faulted _ _ s⟩

/-- Settles O56: no byte is listed, so every address reads as unlisted; the other pieces are those of `State.reset`. -/
theorem resetValues : Obligations.ResetValues := by
  refine ⟨fun x => ?_, rfl, rfl, fun k => ?_, rfl, rfl, rfl, rfl, fun x y => ?_, rfl, rfl, rfl, fun a ha => ?_,
    fun a ha => ?_⟩
  · simp [State.getV, State.reset]
  · simp [State.stackAt, State.reset]
  · simp [Frame.cell, State.reset]
  · exact (State.reset_readByte a).trans (dif_pos ha)
  · exact (State.reset_readByte a).trans (dif_neg (by simpa using ha))

end Sys2Proof.Proofs
end

section
/-! SUPPORT. What the instructions that touch memory do there, said once (family 20_memory.md). -/

namespace Sys2Proof.Safety

open Sys2Proof.Machine

/-- An instruction that touches memory checks its highest address before anything else, and then advances. -/
theorem exec_eq_checkAddr {i : Instr} {s : State} {a : Nat} (h : lastOperand i s = some a) :
    exec i s = checkAddr i s a (advance i s (effect i s)) := by
  cases i with
  | drw x y n =>
    by_cases hn : n = 0#4
    · simp [lastOperand, hn] at h
    · have hpos : n.toNat ≠ 0 := fun e => hn (BitVec.eq_of_toNat_eq e)
      have ha : s.addrI (n.toNat - 1) = a := by
        simp only [lastOperand, hn, if_false, Option.some.injEq] at h
        rw [State.addrI]
        omega
      rw [show exec (.drw x y n) s = execDrw x y n s from rfl, execDrw, if_neg hpos, ha]
      rfl
  | ldB _ | storeRegs _ | loadRegs _ =>
    cases h
    rfl
  | _ => cases h

/-- A completing instruction stores `storedCount` bytes from I up and no other byte (20_memory.md R57). -/
theorem readByte_effect {i : Instr} {s : State} {a : Nat}
    (h : a < s.addrI 0 ∨ s.addrI 0 + storedCount i ≤ a) : (effect i s).readByte a = s.readByte a := by
  cases i with
  | ldB x => exact State.readByte_writeBytes_out s _ _ h
  | storeRegs x => exact State.readByte_writeBytes_out s _ _ (by rwa [State.getVs_length])
  | _ => exact effect_sameBut _ s .mem (by simp [writtenBy]) a

/-- FX55 stores V[k] at I + k, for each k up to X (44_index_memory.md R154). -/
theorem readByte_effect_storeRegs (s : State) {x : RegIdx} {k : Nat} (hk : k ≤ x.toNat) :
    (effect (.storeRegs x) s).readByte (s.i.toNat + k) = s.getV (BitVec.ofNat 4 k) := by
  have hlen : k < (s.getVs x).length := by
    rw [State.getVs_length]
    omega
  exact (State.readByte_writeBytes_in s _ _ hlen).trans (State.getVs_getElem s x hlen)

/-- FX55 completes where its bytes and the advanced PC lie in memory. -/
theorem exec_storeRegs {x : RegIdx} {s : State} (hpc : s.pc.toNat ≤ 4093) (hlast : s.i.toNat + x.toNat ≤ 4095) :
    exec (.storeRegs x) s = .next ((effect (.storeRegs x) s).setPc (BitVec.ofNat 16 (s.pc.toNat + 2))) := by
  rw [exec_eq_checkAddr (i := .storeRegs x) rfl, checkAddr_ok _ _ _ hlast, advance_ok _ _ _ hpc]

/-- The word that a fetch reads once PC is set to an address of memory with another one above it. -/
theorem fetch_setPc (s : State) {a : Nat} (ha : a ≤ 4094) :
    fetch (s.setPc (BitVec.ofNat 16 a)) = some (wordOfBytes (s.readByte a) (s.readByte (a + 1))) := by
  have hpc : (BitVec.ofNat 16 a).toNat = a := by
    rw [BitVec.toNat_ofNat, Nat.mod_eq_of_lt (by omega)]
  rw [fetch_some (by rw [State.setPc_pc, hpc]; exact ha)]
  simp only [State.setPc_pc, State.readByte_setPc, hpc]

end Sys2Proof.Safety
end

section
/-! The obligations of the family 20_memory.md. -/

namespace Sys2Proof.Proofs

open Sys2Proof.Machine Sys2Proof.Safety

/-- Settles O21: a fatal condition and the start of a key wait store nothing, and a completion stores as `readByte_effect`
says. -/
theorem bytesWrittenByEachInstruction : Obligations.BytesWrittenByEachInstruction := by
  intro i s t a hexec ha
  cases exec_next_outcome hexec with
  | fatal kind => rfl
  | waits x _ _ => rfl
  | completes _ _ _ => exact readByte_effect ha

/-- Settles O46: the operand check comes before the advance, so its fatal branch is taken whatever PC is. -/
theorem memoryOperandFaults : Obligations.MemoryOperandFaults := by
  intro i s a hlast ha
  exact ⟨_, (exec_eq_checkAddr hlast).trans (checkAddr_fatal i s _ ha), takeFatal_faulted _ _ s⟩

/-- Settles O47: the fetch reads the two adjacent bytes that the FX55 stored, the one at the lower address as the high one. -/
theorem storedBytesAreFetched : Obligations.StoredBytesAreFetched := by
  intro x s k hpc hlast hk
  refine ⟨_, _, exec_storeRegs hpc hlast, fetch_setPc _ (by omega), ?_⟩
  rw [wordOfBytes_toNat, State.readByte_setPc, State.readByte_setPc, readByte_effect_storeRegs s hk.le, Nat.add_assoc,
    readByte_effect_storeRegs s hk]

/-- Settles O8: `fetch` is guarded by PC + 1 being an address of memory, and a cycle whose fetch fails is fatal. -/
theorem fetchIsBigEndianAndNeverWraps : Obligations.FetchIsBigEndianAndNeverWraps := by
  intro s
  refine ⟨fun hpc => ⟨_, fetch_some hpc, wordOfBytes_toNat _ _⟩, fun hpc => ⟨fetch_none hpc, fun hmode => ?_⟩⟩
  exact ⟨_, step_fetch_fatal hmode (fetch_none hpc), takeFatal_beginCycle_faulted _ _ s⟩

end Sys2Proof.Proofs
end

section
/-! SUPPORT. Words and their fields, the decoder and the opcode map, said once (family 30_encoding.md). -/

namespace Sys2Proof

/-! A word put together again from its fields -/

/-- Format NNN. -/
theorem append_nnn {w : Word} {o : Nibble} (hop : (fields w).op = o) : o ++ (fields w).nnn = w := by
  subst hop
  exact (BitVec.extractLsb'_append_extractLsb'_eq_extractLsb' rfl).trans BitVec.extractLsb'_eq_self

/-- Format XYN. -/
theorem append_xyn {w : Word} {o n : Nibble} (hop : (fields w).op = o) (hn : (fields w).n = n) :
    o ++ (fields w).x ++ (fields w).y ++ n = w := by
  subst hop hn
  simp only [fields]
  rw [BitVec.extractLsb'_append_extractLsb'_eq_extractLsb' (show 12 = 8 + 4 by rfl),
    BitVec.extractLsb'_append_extractLsb'_eq_extractLsb' (show 8 = 4 + 4 by rfl),
    BitVec.extractLsb'_append_extractLsb'_eq_extractLsb' (show 4 = 0 + 4 by rfl)]
  exact BitVec.extractLsb'_eq_self

/-- Format XNN. -/
theorem append_xnn {w : Word} {o : Nibble} {nn : Byte} (hop : (fields w).op = o) (hnn : (fields w).nn = nn) :
    o ++ (fields w).x ++ nn = w := by
  subst hop hnn
  exact (Safety.word_eq_fields w).symm

/-! The decoder -/

/-- By the format of the instruction's word: its fields are the operands that `encode` put there. -/
theorem decode_encode (i : Instr) : decode (encode i) = .ok i := by
  cases i with
  | cls | ret => rfl
  | jp _ | call _ | ldI _ | jpV0 _ => simp [decode, encode, fields_nnn]
  | seReg _ _ | sneReg _ _ | ldReg _ _ | orReg _ _ | andReg _ _ | xorReg _ _ | addReg _ _ | subReg _ _ | shr _ _
  | subn _ _ | shl _ _ | drw _ _ _ => simp [decode, encode, fields_xyn]
  | _ => simp [decode, encode, fields_xnn]

/-- The two answers of the decoder: the word is unrecognized, or it is the word of the instruction answered. -/
inductive DecodeOutcome (w : Word) : Except DecodeError Instr → Prop where
  | unrecognized : DecodeOutcome w (.error (.unrecognized w))
  | decoded (i : Instr) (h : encode i = w) : DecodeOutcome w (.ok i)

/-- By the branches of `decode`, which look at the op nibble first: the op nibble and the sub-selector that a branch has found
are those that `encode` writes, and the other fields are the operands. The branches are grouped by
format; `h_k` is the branch of the op nibble k - 1. -/
theorem decode_outcome (w : Word) : DecodeOutcome w (decode w) := by
  simp only [decode]
  split
  case h_1 =>
    split
    · next h => exact .decoded .cls h.symm
    · split
      · next h => exact .decoded .ret h.symm
      · exact .unrecognized
  case h_2 hop | h_3 hop | h_11 hop | h_12 hop => exact .decoded _ (append_nnn (BitVec.eq_of_toNat_eq hop))
  case h_4 hop | h_5 hop | h_7 hop | h_8 hop | h_13 hop =>
    exact .decoded _ (append_xnn (BitVec.eq_of_toNat_eq hop) rfl)
  case h_14 hop => exact .decoded _ (append_xyn (BitVec.eq_of_toNat_eq hop) rfl)
  case h_6 hop | h_10 hop =>
    split
    · next hn => exact .decoded _ (append_xyn (BitVec.eq_of_toNat_eq hop) hn)
    · exact .unrecognized
  case h_9 hop =>
    split
    case h_10 => exact .unrecognized
    all_goals
      next hn => exact .decoded _ (append_xyn (BitVec.eq_of_toNat_eq hop) (BitVec.eq_of_toNat_eq hn))
  case h_15 hop =>
    split
    case h_3 => exact .unrecognized
    all_goals
      next hnn => exact .decoded _ (append_xnn (BitVec.eq_of_toNat_eq hop) (BitVec.eq_of_toNat_eq hnn))
  case h_16 hop =>
    split
    case h_10 => exact .unrecognized
    all_goals
      next hnn => exact .decoded _ (append_xnn (BitVec.eq_of_toNat_eq hop) (BitVec.eq_of_toNat_eq hnn))
  case h_17 => exact .unrecognized

theorem decode_unrecognized_or_encode (w : Word) :
    decode w = .error (.unrecognized w) ∨ ∃ i, encode i = w :=
  match decode w, decode_outcome w with
  | _, .unrecognized => .inl rfl
  | _, .decoded i h => .inr ⟨i, h⟩

theorem encode_of_decode {w : Word} {i : Instr} (h : decode w = .ok i) : encode i = w := by
  obtain herr | ⟨j, rfl⟩ := decode_unrecognized_or_encode w
  · cases herr.symm.trans h
  · cases (decode_encode j).symm.trans h
    rfl

theorem encode_injective : Function.Injective encode := by
  intro i j h
  have hdecode : decode (encode i) = decode (encode j) := congrArg decode h
  rw [decode_encode, decode_encode] at hdecode
  exact Except.ok.inj hdecode

/-! The opcode map -/

theorem opcodeRowOf_mem (i : Instr) : opcodeRowOf i ∈ opcodeRows := by
  cases i <;> simp [opcodeRowOf, opcodeRows, opcodeRowsLow, opcodeRowsHigh]

theorem opcodeRowOf_selects_encode (i : Instr) : (opcodeRowOf i).selects (encode i) = true := by
  cases i with
  | cls | ret => rfl
  | jp _ | call _ | ldI _ | jpV0 _ => exact decide_eq_true (mask_nnn _ _)
  | seImm _ _ | sneImm _ _ | ldImm _ _ | addImm _ _ | rnd _ _ => exact decide_eq_true (mask_xnn _ _ _)
  | drw _ _ _ => exact decide_eq_true (mask_xyn _ _ _ _)
  | seReg _ _ | sneReg _ _ | ldReg _ _ | orReg _ _ | andReg _ _ | xorReg _ _ | addReg _ _ | subReg _ _ | shr _ _
  | subn _ _ | shl _ _ => exact decide_eq_true (mask_xyfixed _ _ _ _)
  | _ => exact decide_eq_true (mask_xfixed _ _ _)

/-- A bit range that a row's mask keeps whole holds the pattern's bits in every selected word. -/
theorem bits_of_selects {p m w : Word} {s n : Nat} (hm : m.extractLsb' s n = BitVec.allOnes n)
    (h : OpcodeRow.selects ⟨p, m⟩ w = true) : w.extractLsb' s n = p.extractLsb' s n := by
  have hsel : w &&& m = p := of_decide_eq_true h
  rw [← hsel, BitVec.extractLsb'_and, hm, BitVec.and_allOnes]

/-! The formats of the rows: a selected word is the pattern's fixed fields with the word's own operands -/

section
variable {p w : Word}

theorem fixed_of_selects (h : OpcodeRow.selects ⟨p, 0xFFFF⟩ w = true) : p = w := by
  simpa using (bits_of_selects (s := 0) (n := 16) rfl h).symm

theorem nnn_of_selects (h : OpcodeRow.selects ⟨p, 0xF000⟩ w = true) : (fields p).op ++ (fields w).nnn = w :=
  append_nnn (bits_of_selects rfl h)

theorem xnn_of_selects (h : OpcodeRow.selects ⟨p, 0xF000⟩ w = true) :
    (fields p).op ++ (fields w).x ++ (fields w).nn = w :=
  append_xnn (bits_of_selects rfl h) rfl

theorem xyn_of_selects (h : OpcodeRow.selects ⟨p, 0xF000⟩ w = true) :
    (fields p).op ++ (fields w).x ++ (fields w).y ++ (fields w).n = w :=
  append_xyn (bits_of_selects rfl h) rfl

theorem xyfixed_of_selects (h : OpcodeRow.selects ⟨p, 0xF00F⟩ w = true) :
    (fields p).op ++ (fields w).x ++ (fields w).y ++ (fields p).n = w :=
  append_xyn (bits_of_selects rfl h) (bits_of_selects rfl h)

theorem xfixed_of_selects (h : OpcodeRow.selects ⟨p, 0xF0FF⟩ w = true) :
    (fields p).op ++ (fields w).x ++ (fields p).nn = w :=
  append_xnn (bits_of_selects rfl h) (bits_of_selects rfl h)

end

/-- A word that a row selects is the word of an instruction of that row, whose operands are the fields of the word
(30_encoding.md R77), row by row in the order of the map.
`(… :)` reads a lemma at the row's own pattern before it is compared with `encode`. -/
theorem exists_encode_of_selects (w : Word) :
    ∀ r ∈ opcodeRows, r.selects w = true → ∃ i, opcodeRowOf i = r ∧ encode i = w := by
  simp only [opcodeRows, opcodeRowsLow, opcodeRowsHigh, List.cons_append, List.nil_append, List.forall_mem_cons]
  exact ⟨fun h => ⟨.cls, rfl, (fixed_of_selects h :)⟩, fun h => ⟨.ret, rfl, (fixed_of_selects h :)⟩,
    fun h => ⟨.jp _, rfl, (nnn_of_selects h :)⟩, fun h => ⟨.call _, rfl, (nnn_of_selects h :)⟩,
    fun h => ⟨.seImm _ _, rfl, (xnn_of_selects h :)⟩, fun h => ⟨.sneImm _ _, rfl, (xnn_of_selects h :)⟩,
    fun h => ⟨.seReg _ _, rfl, (xyfixed_of_selects h :)⟩, fun h => ⟨.ldImm _ _, rfl, (xnn_of_selects h :)⟩,
    fun h => ⟨.addImm _ _, rfl, (xnn_of_selects h :)⟩, fun h => ⟨.ldReg _ _, rfl, (xyfixed_of_selects h :)⟩,
    fun h => ⟨.orReg _ _, rfl, (xyfixed_of_selects h :)⟩, fun h => ⟨.andReg _ _, rfl, (xyfixed_of_selects h :)⟩,
    fun h => ⟨.xorReg _ _, rfl, (xyfixed_of_selects h :)⟩, fun h => ⟨.addReg _ _, rfl, (xyfixed_of_selects h :)⟩,
    fun h => ⟨.subReg _ _, rfl, (xyfixed_of_selects h :)⟩, fun h => ⟨.shr _ _, rfl, (xyfixed_of_selects h :)⟩,
    fun h => ⟨.subn _ _, rfl, (xyfixed_of_selects h :)⟩, fun h => ⟨.shl _ _, rfl, (xyfixed_of_selects h :)⟩,
    fun h => ⟨.sneReg _ _, rfl, (xyfixed_of_selects h :)⟩, fun h => ⟨.ldI _, rfl, (nnn_of_selects h :)⟩,
    fun h => ⟨.jpV0 _, rfl, (nnn_of_selects h :)⟩, fun h => ⟨.rnd _ _, rfl, (xnn_of_selects h :)⟩,
    fun h => ⟨.drw _ _ _, rfl, (xyn_of_selects h :)⟩, fun h => ⟨.skp _, rfl, (xfixed_of_selects h :)⟩,
    fun h => ⟨.sknp _, rfl, (xfixed_of_selects h :)⟩, fun h => ⟨.ldVxDt _, rfl, (xfixed_of_selects h :)⟩,
    fun h => ⟨.ldVxK _, rfl, (xfixed_of_selects h :)⟩, fun h => ⟨.ldDtVx _, rfl, (xfixed_of_selects h :)⟩,
    fun h => ⟨.ldStVx _, rfl, (xfixed_of_selects h :)⟩, fun h => ⟨.addI _, rfl, (xfixed_of_selects h :)⟩,
    fun h => ⟨.ldF _, rfl, (xfixed_of_selects h :)⟩, fun h => ⟨.ldB _, rfl, (xfixed_of_selects h :)⟩,
    fun h => ⟨.storeRegs _, rfl, (xfixed_of_selects h :)⟩, fun h => ⟨.loadRegs _, rfl, (xfixed_of_selects h :)⟩, nofun⟩

theorem decode_unrecognized_iff (w : Word) :
    decode w = .error (.unrecognized w) ↔ ∀ r ∈ opcodeRows, r.selects w = false := by
  constructor
  · intro herr r hr
    refine Bool.eq_false_iff.mpr fun hsel => ?_
    obtain ⟨i, -, rfl⟩ := exists_encode_of_selects w r hr hsel
    cases (decode_encode i).symm.trans herr
  · intro hnone
    obtain herr | ⟨i, rfl⟩ := decode_unrecognized_or_encode w
    · exact herr
    · cases (opcodeRowOf_selects_encode i).symm.trans (hnone _ (opcodeRowOf_mem i))

end Sys2Proof
end

section
/-! The obligations of the family 30_encoding.md. -/

namespace Sys2Proof.Proofs

open Sys2Proof.Machine Sys2Proof.Safety

/-- Settles O3, by the format of the instruction's word. -/
theorem decodeOfEncodeIsTheInstruction : Obligations.DecodeOfEncodeIsTheInstruction := by
  intro i rest
  refine ⟨decode_encode i, ?_⟩
  rw [decodeBytes, wordOfBytes_bytes, decode_encode]
  rfl

/-- Settles O4, by the two answers of the decoder. -/
theorem encodeOfDecodeIsTheWord : Obligations.EncodeOfDecodeIsTheWord :=
  fun _ _ => encode_of_decode

/-- Settles O5: a selected word is the word of an instruction in that row, and every instruction's row selects its word. -/
theorem decodeFollowsTheOpcodeMap : Obligations.DecodeFollowsTheOpcodeMap := by
  intro w
  refine ⟨fun i h => ⟨opcodeRowOf_mem i, ?_⟩, decode_unrecognized_iff w⟩
  rw [← encode_of_decode h]
  exact opcodeRowOf_selects_encode i

/-- Settles O6: the rows that select a word are the rows of instructions with that word, and `encode` is injective. -/
theorem opcodeRowsAreDisjoint : Obligations.OpcodeRowsAreDisjoint := by
  intro w r hr q hq hrw hqw
  obtain ⟨i, rfl, hi⟩ := exists_encode_of_selects w r hr hrw
  obtain ⟨j, rfl, hj⟩ := exists_encode_of_selects w q hq hqw
  exact congrArg opcodeRowOf (encode_injective (hi.trans hj.symm))

/-- Settles O9: such a word does not decode, and a cycle whose word does not decode is fatal. -/
theorem unrecognizedWordHalts : Obligations.UnrecognizedWordHalts := by
  intro s w hmode hfetch hnone
  exact ⟨_, step_decode_fatal hmode hfetch ((decode_unrecognized_iff w).mpr hnone), takeFatal_beginCycle_faulted _ _ s⟩

/-- Settles O1: each field is a shift and a remainder of the word. -/
theorem fieldsAreTheBitRangesOfTheWord : Obligations.FieldsAreTheBitRangesOfTheWord := by
  intro w
  have hw := w.isLt
  simp only [fields, BitVec.extractLsb'_toNat, Nat.shiftRight_eq_div_pow, Nat.reducePow, Nat.div_one, true_and]
  omega

end Sys2Proof.Proofs
end

section
/-! SUPPORT. Instructions that advance or skip, and the two cycles of a key wait, said once (family 40_cycle.md). -/

namespace Sys2Proof.Safety

open Sys2Proof.Machine

/-! Writing PC -/

theorem toNat_pc_setPc (s : State) {a : Nat} (ha : a ≤ 4095) : (s.setPc (BitVec.ofNat 16 a)).pc.toNat = a := by
  rw [State.setPc_pc, BitVec.toNat_ofNat, Nat.mod_eq_of_lt (by omega)]

/-- An instruction that always advances writes its effect and PC + 2, whatever its operands (10_state.md R25). -/
theorem exec_plainAdvance {i : Instr} (h : plainAdvance i = true) (s : State) :
    exec i s = advance i s (effect i s) := by
  cases i with
  | cls | ldImm _ _ | addImm _ _ | ldReg _ _ | orReg _ _ | andReg _ _ | xorReg _ _ | addReg _ _ | subReg _ _
  | shr _ _ | subn _ _ | shl _ _ | rnd _ _ | ldI _ | addI _ | ldF _ | ldVxDt _ | ldDtVx _ | ldStVx _ => rfl
  | _ => cases h

/-- A sprite of no rows touches no memory, so its operand check cannot fail (20_memory.md R54). -/
theorem exec_drw_zero (x y : RegIdx) (s : State) :
    exec (.drw x y 0#4) s = advance (.drw x y 0#4) s (effect (.drw x y 0#4) s) :=
  checkAddr_ok (.drw x y 0#4) s _ (Nat.zero_le 4095)

/-- FX0A with a key pressed advances (46_keys_timers.md R173). -/
theorem exec_ldVxK_some (x : RegIdx) {s : State} (hkeys : s.keys ≠ 0#16) :
    exec (.ldVxK x) s = advance (.ldVxK x) s (effect (.ldVxK x) s) :=
  keyWait_some x hkeys

theorem exec_ldVxK_completes (x : RegIdx) {s : State} (hkeys : s.keys ≠ 0#16) (hpc : s.pc.toNat ≤ 4093) :
    exec (.ldVxK x) s = .next ((effect (.ldVxK x) s).setPc (BitVec.ofNat 16 (s.pc.toNat + 2))) :=
  (exec_ldVxK_some x hkeys).trans (advance_ok _ s _ hpc)

/-- Every skip is one write of PC, to its skip target (40_cycle.md R98). -/
theorem skipIf_eq_writePc (i : Instr) (s : State) (c : Prop) [Decidable c] :
    skipIf i s (decide c) = writePc i s (skipTarget s c) s := by
  simp only [skipIf, skipTarget, decide_eq_true_eq]

theorem faults_of_raise {kind : FatalKind} {i : Instr} {s : State} (h : exec i s = raise kind i s) :
    Faults kind i s :=
  ⟨_, h, takeFatal_faulted _ _ s⟩

theorem faults_of_advance {i : Instr} {s eff : State} (h : exec i s = advance i s eff) (hpc : 4094 ≤ s.pc.toNat) :
    Faults .addressOutOfRange i s :=
  faults_of_raise (h.trans (advance_fatal i s eff hpc))

theorem faults_of_skipIf {i : Instr} {s : State} {c : Prop} [Decidable c] (h : exec i s = skipIf i s (decide c))
    (htarget : 4095 < skipTarget s c) : Faults .addressOutOfRange i s :=
  faults_of_raise (h.trans ((skipIf_eq_writePc i s c).trans (writePc_fatal i s s htarget)))

/-! The key wait -/

/-- The key that ends a wait fits a byte, so V[x] is its index. -/
theorem toNat_getV_effect_ldVxK (x : RegIdx) (s : State) :
    ((effect (.ldVxK x) s).getV x).toNat = (chooseKey s.keys (Config.keyChoice s.draws)).toNat := by
  simp only [effect, State.getV_tookDraw, State.getV_setMode, State.getV_setV_self]
  exact BitVec.toNat_setWidth_of_le (by decide)

/-- A blocked cycle without a key only ticks: the wait it starts again is the one it was in. -/
theorem step_blocked_no_key {s : State} {x : RegIdx} (hmode : s.mode = .blockedOnKey x) (hkeys : s.keys = 0#16) :
    step s = .next (timerTick s.beginCycle) := by
  have hwait : keyWait x s.beginCycle = .next s.beginCycle := by
    rw [keyWait_none x (s := s.beginCycle) hkeys, ← hmode]
    rfl
  rw [step_blocked hmode, hwait, endCycle_ticks (by simp [hmode])]

/-- A blocked cycle with a key completes the waiting FX0A and ticks. -/
theorem step_blocked_key {s : State} {x : RegIdx} (hmode : s.mode = .blockedOnKey x) (hkeys : s.keys ≠ 0#16)
    (hpc : s.pc.toNat ≤ 4093) : step s = .next
      (timerTick ((effect (.ldVxK x) s.beginCycle).setPc (BitVec.ofNat 16 (s.pc.toNat + 2)))) := by
  have hexec := exec_ldVxK_completes x (s := s.beginCycle) hkeys hpc
  rw [step_blocked hmode, show keyWait x s.beginCycle = exec (.ldVxK x) s.beginCycle from rfl, hexec,
    endCycle_ticks (by simp [effect]), State.beginCycle_pc]

/-- The frame of a cycle: between the clearing of the event and the tick, only the execute stage's own pieces change. -/
theorem SameBut.cycle {ps : List Piece} {s t : State} (h : SameBut ps s.beginCycle t) :
    SameBut ([.dt, .st, .event] ++ ps) s (timerTick t) :=
  (((sameBut_beginCycle s).trans h).trans (sameBut_timerTick t)).mono (by grind)

end Sys2Proof.Safety
end

section
/-! The obligations of the family 40_cycle.md. -/

namespace Sys2Proof.Proofs

open Sys2Proof.Machine Sys2Proof.Safety

/-- Settles O18: without a key the cycle is a tick alone, and with one it is the waiting FX0A and the tick; the key chosen
is pressed, whatever the preference. -/
theorem blockedCycleWaitsForAKey : Obligations.BlockedCycleWaitsForAKey := by
  intro s x hmode
  refine ⟨fun hkeys => ?_, fun hkeys hpc => ?_⟩
  · exact ⟨_, step_blocked_no_key hmode hkeys, tickByte_toNat _, tickByte_toNat _,
      SameBut.cycle (ps := []) fun p _ => Same.refl p _⟩
  · refine ⟨_, _, step_blocked_key hmode hkeys hpc, chooseKey_pressed hkeys (Config.keyChoice s.draws),
      toNat_getV_effect_ldVxK x s.beginCycle, fun y hy => getV_effect (i := .ldVxK x) hy s.beginCycle, rfl,
      toNat_pc_setPc (effect (.ldVxK x) s.beginCycle) (by omega), tickByte_toNat _, tickByte_toNat _, ?_⟩
    exact ((effect_sameBut (.ldVxK x) s.beginCycle).setPc _).cycle.mono (by simp [writtenBy])

/-- Settles O33: each of these instructions ends in one PC write, and its target is above 4095. -/
theorem pcWritesAbove4095Fault : Obligations.PcWritesAbove4095Fault := by
  refine ⟨fun i s hadv hpc => ?_, fun x y nn s => ⟨?_, ?_, ?_, ?_⟩, fun x s hkeys hpc => ?_⟩
  · obtain hplain | ⟨a, hlast, ha⟩ | ⟨x, y, rfl⟩ := hadv
    · exact faults_of_advance (exec_plainAdvance hplain s) hpc
    · exact faults_of_advance ((exec_eq_checkAddr hlast).trans (checkAddr_ok _ _ _ ha)) hpc
    · exact faults_of_advance (exec_drw_zero x y s) hpc
  · exact faults_of_skipIf rfl
  · exact faults_of_skipIf rfl
  · exact faults_of_skipIf rfl
  · exact faults_of_skipIf rfl
  · exact faults_of_advance (exec_ldVxK_some x hkeys) hpc

/-- Settles O7, by the definition of a cycle in mode Running. -/
theorem stepRunsTheDecodedInstruction : Obligations.StepRunsTheDecodedInstruction :=
  fun _ _ _ => step_running

end Sys2Proof.Proofs
end

section
/-! SUPPORT. Jumps, and a call and a return within the stack, said once (family 41_flow.md). -/

namespace Sys2Proof.Safety

open Sys2Proof.Machine

/-! Jumps -/

/-- A word of format NNN as arithmetic (30_encoding.md R71). -/
theorem toNat_append_nnn (o : Nibble) (nnn : Addr) : (o ++ nnn : Word).toNat = o.toNat * 4096 + nnn.toNat := by
  rw [BitVec.toNat_append, ← Nat.shiftLeft_add_eq_or_of_lt nnn.isLt, Nat.shiftLeft_eq]

theorem toNat_zextAddr (nnn : Addr) : (zextAddr nnn).toNat = nnn.toNat :=
  BitVec.toNat_setWidth_of_le (by decide)

/-- "NNN is at most 4095, so the PC write cannot fault" (41_flow.md R111). -/
theorem toNat_zextAddr_le (nnn : Addr) : (zextAddr nnn).toNat ≤ 4095 := by
  have := nnn.isLt
  rw [toNat_zextAddr]
  omega

/-- An instruction that writes PC alone, to an address of memory. -/
theorem movesPcTo_of_writePc {i : Instr} {s : State} {a : Nat} (h : exec i s = writePc i s a s) (ha : a ≤ 4095) :
    MovesPcTo i s a :=
  ⟨_, h.trans (writePc_ok i s s ha), toNat_pc_setPc s ha, sameBut_setPc s _⟩

/-! Call and return -/

theorem returnAddress_pushed (s : State) (w : Word) (h : s.sp.val < 16) :
    (s.pushed w h).returnAddress = w.toNat :=
  congrArg BitVec.toNat (State.stackAt_pushed_self s w h)

theorem exec_call_completes (nnn : Addr) {s : State} (hsp : s.sp.val < 16) :
    exec (.call nnn) s =
      .next ((s.pushed (s.pc + 2#16) hsp).setPc (BitVec.ofNat 16 (zextAddr nnn).toNat)) :=
  (dif_pos hsp).trans (writePc_ok _ s _ (toNat_zextAddr_le nnn))

theorem exec_ret_completes {s : State} (hsp : 0 < s.sp.val) (haddr : s.returnAddress ≤ 4095) :
    exec .ret s = .next (s.popped.setPc (BitVec.ofNat 16 s.returnAddress)) :=
  (if_neg (Nat.ne_of_gt hsp)).trans (writePc_ok _ s _ haddr)

/-- A pop undoes a push: the entry left behind is not in use (10_state.md R26). -/
theorem sameBut_popped_pushed (s : State) (w : Word) (h : s.sp.val < 16) : SameBut [] s (s.pushed w h).popped := by
  intro p _
  by_cases hp : p = .stack
  · subst hp
    exact ⟨rfl, fun k hk => State.stackAt_pushed_ne s w h (Nat.ne_of_lt hk)⟩
  · exact ((sameBut_pushed s w h).trans (sameBut_popped _)) p (by simp [hp])

end Sys2Proof.Safety
end

section
/-! The obligations of the family 41_flow.md. -/

namespace Sys2Proof.Proofs

open Sys2Proof.Machine Sys2Proof.Safety

/-- Settles O28: the return finds PC + 2, which the call pushed, and its pop undoes the push. -/
theorem callThenReturnRestores : Obligations.CallThenReturnRestores := by
  intro nnn s hsp hpc
  have hpushed : (s.pc + 2#16).toNat = s.pc.toNat + 2 :=
    BitVec.toNat_add_of_lt (show s.pc.toNat + 2 < 2 ^ 16 by omega)
  have haddr : (s.pushed (s.pc + 2#16) hsp).returnAddress = s.pc.toNat + 2 :=
    (returnAddress_pushed s _ hsp).trans hpushed
  have hle : (s.pushed (s.pc + 2#16) hsp).returnAddress ≤ 4095 := by omega
  exact ⟨_, _, exec_call_completes nnn hsp, exec_ret_completes (Nat.succ_pos _) hle,
    (toNat_pc_setPc _ hle).trans haddr, (sameBut_popped_pushed s _ hsp).setPc _⟩

/-- Settles O25: the op nibble 1 stands above NNN, and NNN as an address is within memory. -/
theorem jumpSetsPc : Obligations.JumpSetsPc := by
  intro nnn s
  have hmoves : MovesPcTo (.jp nnn) s (zextAddr nnn).toNat := movesPcTo_of_writePc rfl (toNat_zextAddr_le nnn)
  exact ⟨toNat_append_nnn 0x1#4 nnn, toNat_zextAddr nnn ▸ hmoves⟩

/-- Settles O26: the entry pushed is the one that a return reads, and it stands above the entries in use. -/
theorem callPushesReturnAddress : Obligations.CallPushesReturnAddress := by
  intro nnn s hsp
  refine ⟨_, exec_call_completes nnn hsp, ?_, rfl, ?_, fun k hk => ?_, (sameBut_pushed s _ hsp).setPc _⟩
  · exact (toNat_pc_setPc _ (toNat_zextAddr_le nnn)).trans (toNat_zextAddr nnn)
  · exact (returnAddress_pushed s _ hsp).trans (BitVec.toNat_add _ _)
  · exact State.stackAt_pushed_ne s _ hsp (Nat.ne_of_lt hk)

/-- Settles O27: the pop lowers SP and leaves every entry as it was. -/
theorem returnGoesToReturnAddress : Obligations.ReturnGoesToReturnAddress := by
  intro s hsp haddr
  exact ⟨_, exec_ret_completes hsp haddr, toNat_pc_setPc _ haddr, Nat.sub_add_cancel hsp, fun _ _ => rfl,
    (sameBut_popped s).setPc _⟩

/-- Settles O30: BNNN is one write of PC, to the unbounded sum. -/
theorem indexedJumpAddsV0 : Obligations.IndexedJumpAddsV0 :=
  fun _ s => ⟨movesPcTo_of_writePc rfl, fun h => faults_of_raise (writePc_fatal _ s s h)⟩

end Sys2Proof.Proofs
end

section
/-! SUPPORT. A skip that stays within memory, said once (family 42_skip.md). -/

namespace Sys2Proof.Safety

open Sys2Proof.Machine

/-- A skip writes PC alone, so one whose target is an address of memory moves there. -/
theorem movesPcTo_of_skipIf {i : Instr} {s : State} {c : Prop} [Decidable c] (h : exec i s = skipIf i s (decide c))
    (htarget : skipTarget s c ≤ 4095) : MovesPcTo i s (skipTarget s c) :=
  movesPcTo_of_writePc (h.trans (skipIf_eq_writePc i s c)) htarget

end Sys2Proof.Safety
end

section
/-! The obligations of the family 42_skip.md. -/

namespace Sys2Proof.Proofs

open Sys2Proof.Machine Sys2Proof.Safety

/-- Settles O31: each of the two is a skip on its own condition on V[X] and NN. -/
theorem immediateSkips : Obligations.ImmediateSkips :=
  fun _ _ _ => ⟨movesPcTo_of_skipIf rfl, movesPcTo_of_skipIf rfl⟩

/-- Settles O32: each of the two is a skip on its own condition on V[X] and V[Y]. -/
theorem registerSkips : Obligations.RegisterSkips :=
  fun _ _ _ => ⟨movesPcTo_of_skipIf rfl, movesPcTo_of_skipIf rfl⟩

end Sys2Proof.Proofs
end

section
/-! SUPPORT. Loading a register, with VF or without, and flags and results as numbers, said once (family 43_alu.md). -/

namespace Sys2Proof.Machine

@[simp] theorem State.setV_setV_self (s : State) (x : RegIdx) (a b : Byte) : (s.setV x a).setV x b = s.setV x b := by
  simp [State.setV]

end Sys2Proof.Machine

namespace Sys2Proof.Safety

open Sys2Proof.Machine

/-! Loading a register, and a register and VF -/

/-- An instruction that always advances completes where PC + 2 is an address of memory. -/
theorem exec_plainAdvance_completes {i : Instr} {s : State} (h : plainAdvance i = true) (hpc : s.pc.toNat ≤ 4093) :
    exec i s = .next ((effect i s).setPc (BitVec.ofNat 16 (s.pc.toNat + 2))) :=
  (exec_plainAdvance h s).trans (advance_ok i s _ hpc)

section
variable {i : Instr} {s : State} {x : RegIdx}

/-- The shape of the loads without a flag (43_alu.md R132 to R137). -/
theorem loadsByte_of_setV {b : Byte} {n : Nat} (hadv : plainAdvance i = true) (hpc : s.pc.toNat ≤ 4093)
    (heff : effect i s = s.setV x b) (hn : b.toNat = n) : LoadsByte i x n s := by
  refine ⟨_, exec_plainAdvance_completes hadv hpc, ?_, toNat_pc_setPc _ (by omega), fun y hy => ?_, ?_⟩
  · rw [heff, State.getV_setPc, State.getV_setV_self, hn]
  · rw [heff, State.getV_setPc, State.getV_setV_ne s hy]
  · rw [heff]
    exact (sameBut_setV s x b).setPc _

/-- The shape of the instructions with a flag, where X is not VF: both writes are seen (43_alu.md R138 to R142). -/
theorem loadsByteAndFlag_of_setV {r : Byte} {flag : Bool} {n f : Nat} (hadv : plainAdvance i = true)
    (hpc : s.pc.toNat ≤ 4093) (heff : effect i s = (s.setV x r).setV vf (flagByte flag)) (hx : x ≠ vf)
    (hn : r.toNat = n) (hf : (flagByte flag).toNat = f) : LoadsByteAndFlag i x n f s := by
  refine ⟨_, exec_plainAdvance_completes hadv hpc, ?_, ?_, toNat_pc_setPc _ (by omega), fun y hy hvf => ?_, ?_⟩
  · rw [heff, State.getV_setPc, State.getV_setV_ne _ hx, State.getV_setV_self, hn]
  · rw [heff, State.getV_setPc, State.getV_setV_self, hf]
  · rw [heff, State.getV_setPc, State.getV_setV_ne _ hvf, State.getV_setV_ne s hy]
  · rw [heff]
    exact (((sameBut_setV s x r).trans (sameBut_setV _ vf _)).setPc _).mono (by simp)

/-- The same where X is VF: the flag, written last, is the byte loaded (43_alu.md R131; log 12). -/
theorem loadsByte_of_setV_vf {r : Byte} {flag : Bool} {f : Nat} (hadv : plainAdvance i = true)
    (hpc : s.pc.toNat ≤ 4093) (heff : effect i s = (s.setV vf r).setV vf (flagByte flag))
    (hf : (flagByte flag).toNat = f) : LoadsByte i vf f s :=
  loadsByte_of_setV hadv hpc (heff.trans (State.setV_setV_self s vf r _)) hf

end

/-! Flags as numbers -/

theorem toNat_flagByte (b : Bool) : (flagByte b).toNat = b.toNat := by
  cases b <;> rfl

theorem toNat_flagByte_carryOut (a b : Byte) :
    (flagByte (carryOut a b)).toNat = if 255 < a.toNat + b.toNat then 1 else 0 := by
  by_cases h : 255 < a.toNat + b.toNat <;> simp [carryOut, flagByte, h]

theorem toNat_flagByte_noBorrow (a b : Byte) :
    (flagByte (noBorrow a b)).toNat = if b.toNat ≤ a.toNat then 1 else 0 := by
  by_cases h : b.toNat ≤ a.toNat <;> simp [noBorrow, flagByte, h]

theorem toNat_flagByte_lsbOf (a : Byte) : (flagByte (lsbOf a)).toNat = a.toNat % 2 := by
  rw [toNat_flagByte, lsbOf, BitVec.getLsbD, Nat.toNat_testBit, Nat.pow_zero, Nat.div_one]

/-- Bit 7 of a byte is the byte's quotient by 128. -/
theorem toNat_flagByte_msbOf (a : Byte) : (flagByte (msbOf a)).toNat = a.toNat / 128 := by
  have ha := a.isLt
  rw [toNat_flagByte, msbOf, BitVec.getLsbD, Nat.toNat_testBit]
  omega

/-! Results as numbers -/

theorem toNat_byte_sub (a b : Byte) : (a - b).toNat = (a.toNat + 256 - b.toNat) % 256 := by
  have hb := b.isLt
  rw [BitVec.toNat_sub]
  omega

theorem toNat_byte_shr (a : Byte) : (a >>> 1).toNat = a.toNat / 2 := by
  rw [BitVec.toNat_ushiftRight, Nat.shiftRight_one]

theorem toNat_byte_shl (a : Byte) : (a <<< 1).toNat = a.toNat * 2 % 256 := by
  rw [BitVec.toNat_shiftLeft, Nat.shiftLeft_eq]

end Sys2Proof.Safety
end

section
/-! The obligations of the family 43_alu.md. -/

namespace Sys2Proof.Proofs

open Sys2Proof.Machine Sys2Proof.Safety

/-- Settles O34: each of the three writes one register and advances. -/
theorem loadsAndAddImmediate : Obligations.LoadsAndAddImmediate :=
  fun _ _ _ _ hpc => ⟨loadsByte_of_setV rfl hpc rfl rfl, loadsByte_of_setV rfl hpc rfl (BitVec.toNat_add _ _),
    loadsByte_of_setV rfl hpc rfl rfl⟩

/-- Settles O35: the bitwise operations on bytes are those on their numbers. -/
theorem logicalOperations : Obligations.LogicalOperations :=
  fun _ _ _ hpc => ⟨loadsByte_of_setV rfl hpc rfl (BitVec.toNat_or _ _),
    loadsByte_of_setV rfl hpc rfl (BitVec.toNat_and _ _), loadsByte_of_setV rfl hpc rfl (BitVec.toNat_xor _ _)⟩

/-- Settles O36: sum and carry are both computed from the old registers. -/
theorem addWritesCarry : Obligations.AddWritesCarry :=
  fun _ _ _ hpc hx =>
    loadsByteAndFlag_of_setV rfl hpc rfl hx (BitVec.toNat_add _ _) (toNat_flagByte_carryOut _ _)

/-- Settles O37: the two differ in which register is the minuend. -/
theorem subtractsWriteNoBorrow : Obligations.SubtractsWriteNoBorrow :=
  fun _ _ _ hpc hx =>
    ⟨loadsByteAndFlag_of_setV rfl hpc rfl hx (toNat_byte_sub _ _) (toNat_flagByte_noBorrow _ _),
      loadsByteAndFlag_of_setV rfl hpc rfl hx (toNat_byte_sub _ _) (toNat_flagByte_noBorrow _ _)⟩

/-- Settles O38: the effect of a shift does not mention Y. -/
theorem shiftsWriteTheBitShiftedOut : Obligations.ShiftsWriteTheBitShiftedOut :=
  fun _ _ _ hpc hx =>
    ⟨loadsByteAndFlag_of_setV rfl hpc rfl hx (toNat_byte_shr _) (toNat_flagByte_lsbOf _),
      loadsByteAndFlag_of_setV rfl hpc rfl hx (toNat_byte_shl _) (toNat_flagByte_msbOf _)⟩

/-- Settles O39: with X = F both writes go to VF, and the flag is the second. -/
theorem flagWinsInVF : Obligations.FlagWinsInVF :=
  fun _ _ hpc => ⟨loadsByte_of_setV_vf rfl hpc rfl (toNat_flagByte_carryOut _ _),
    loadsByte_of_setV_vf rfl hpc rfl (toNat_flagByte_noBorrow _ _),
    loadsByte_of_setV_vf rfl hpc rfl (toNat_flagByte_noBorrow _ _),
    loadsByte_of_setV_vf rfl hpc rfl (toNat_flagByte_lsbOf _), loadsByte_of_setV_vf rfl hpc rfl (toNat_flagByte_msbOf _)⟩

/-- Settles O40: V[X] is the free byte AND NN, so ANDing it with the complement of NN leaves nothing. -/
theorem randomByteIsMasked : Obligations.RandomByteIsMasked := by
  intro x nn s hpc
  have hvx : (effect (.rnd x nn) s).getV x = Config.randByte s.draws &&& nn := State.getV_setV_self s x _
  refine ⟨_, exec_plainAdvance_completes (i := .rnd x nn) rfl hpc, hvx, ?_,
    toNat_pc_setPc (effect (.rnd x nn) s) (by omega), rfl, fun y hy => getV_effect (i := .rnd x nn) hy s,
    (effect_sameBut (.rnd x nn) s).setPc _⟩
  rw [State.getV_setPc, hvx, BitVec.and_assoc, BitVec.and_not_self]
  exact BitVec.and_zero

end Sys2Proof.Proofs
end

section
/-! SUPPORT. Loading I, and the completion of the instructions that touch memory, said once (family 44_index_memory.md). -/

namespace Sys2Proof.Safety

open Sys2Proof.Machine

/-- A number that fits the width is the value of its bit vector. -/
theorem toNat_ofNat_of_lt {w n : Nat} (h : n < 2 ^ w) : (BitVec.ofNat w n).toNat = n := by
  rw [BitVec.toNat_ofNat, Nat.mod_eq_of_lt h]

/-! Loading I -/

/-- The shape of the instructions that write I alone (44_index_memory.md R150 to R152). -/
theorem loadsIndex_of_setI {i : Instr} {s : State} {a : Word} {n : Nat} (hadv : plainAdvance i = true)
    (hpc : s.pc.toNat ≤ 4093) (heff : effect i s = s.setI a) (hn : a.toNat = n) : LoadsIndex i n s := by
  refine ⟨_, exec_plainAdvance_completes hadv hpc, ?_, toNat_pc_setPc _ (by omega), ?_⟩
  · rw [heff, State.setPc_i, State.setI_i, hn]
  · rw [heff]
    exact (sameBut_setI s a).setPc _

/-- Five times a byte fits a word, so FX29 loses nothing (44_index_memory.md R152). -/
theorem toNat_fontOffset (b : Byte) : (BitVec.ofNat 16 (b.toNat * 5)).toNat = b.toNat * 5 := by
  have hb := b.isLt
  exact toNat_ofNat_of_lt (by omega)

theorem toNat_add_zextByte (a : Word) (b : Byte) : (a + zextByte b).toNat = (a.toNat + b.toNat) % 65536 := by
  rw [BitVec.toNat_add, zextByte, BitVec.toNat_setWidth_of_le (by decide)]

/-! Bytes from I upward -/

/-- An instruction that touches memory completes where its highest address and the advanced PC lie in memory. -/
theorem exec_memoryOperand_completes {i : Instr} {s : State} {a : Nat} (hlast : lastOperand i s = some a)
    (ha : a ≤ 4095) (hpc : s.pc.toNat ≤ 4093) :
    exec i s = .next ((effect i s).setPc (BitVec.ofNat 16 (s.pc.toNat + 2))) :=
  (exec_eq_checkAddr hlast).trans ((checkAddr_ok i s _ ha).trans (advance_ok i s _ hpc))

/-- FX33 stores the digits of V[X] in their order (44_index_memory.md R153). -/
theorem readByte_effect_ldB (x : RegIdx) (s : State) {k : Nat} (hk : k < 3) :
    (effect (.ldB x) s).readByte (s.i.toNat + k) = (bcdDigits (s.getV x))[k]'hk :=
  State.readByte_writeBytes_in s (s.addrI 0) _ hk

/-- FX65 loads the byte at I + k into V[k], for each k up to X (44_index_memory.md R155). -/
theorem getV_effect_loadRegs (s : State) {x y : RegIdx} (hy : y.toNat ≤ x.toNat) :
    (effect (.loadRegs x) s).getV y = s.readByte (s.i.toNat + y.toNat) := by
  have hlen : y.toNat < (s.readBytes (s.addrI 0) (x.toNat + 1)).length := by
    rw [State.readBytes_length]
    omega
  rw [effect, State.getV_setVs, List.getD_eq_getElem _ _ hlen, State.readBytes_getElem]
  rfl

end Sys2Proof.Safety
end

section
/-! The obligations of the family 44_index_memory.md. -/

namespace Sys2Proof.Proofs

open Sys2Proof.Machine Sys2Proof.Safety

/-- Settles O43: the digits are each below 256, and they are the only bytes stored. -/
theorem bcdStoresThreeDigits : Obligations.BcdStoresThreeDigits := by
  intro x s hpc hlast
  have hv := (s.getV x).isLt
  refine ⟨_, exec_memoryOperand_completes (i := .ldB x) rfl hlast hpc, ?_, ?_, ?_, fun a ha => ?_,
    toNat_pc_setPc _ (by omega), (effect_sameBut (.ldB x) s).setPc _⟩
  · rw [State.readByte_setPc, ← Nat.add_zero s.i.toNat, readByte_effect_ldB x s (by decide)]
    exact toNat_ofNat_of_lt (by omega)
  · rw [State.readByte_setPc, readByte_effect_ldB x s (by decide)]
    exact toNat_ofNat_of_lt (by omega)
  · rw [State.readByte_setPc, readByte_effect_ldB x s (by decide)]
    exact toNat_ofNat_of_lt (by omega)
  · rw [State.readByte_setPc, readByte_effect]
    exact ha

/-- Settles O44: the stored bytes are those of `readByte_effect_storeRegs`, and there are X + 1 of them. -/
theorem storeRegisters : Obligations.StoreRegisters := by
  intro x s hpc hlast
  refine ⟨_, exec_storeRegs hpc hlast, fun y hy => ?_, fun a ha => ?_, toNat_pc_setPc _ (by omega),
    (effect_sameBut (.storeRegs x) s).setPc _⟩
  · rw [State.readByte_setPc, readByte_effect_storeRegs s hy, BitVec.ofNat_toNat, BitVec.setWidth_eq]
  · rw [State.readByte_setPc, readByte_effect]
    simp only [State.addrI, storedCount]
    omega

/-- Settles O45: a register above X is none that FX65 writes. -/
theorem loadRegisters : Obligations.LoadRegisters := by
  intro x s hpc hlast
  refine ⟨_, exec_memoryOperand_completes (i := .loadRegs x) rfl hlast hpc, fun y hy => ?_, fun y hy => ?_,
    toNat_pc_setPc _ (by omega), (effect_sameBut (.loadRegs x) s).setPc _⟩
  · rw [State.getV_setPc, getV_effect_loadRegs s hy]
  · rw [State.getV_setPc, getV_effect (i := .loadRegs x) (Nat.not_le.2 hy)]

/-- Settles O41: both values fit I. -/
theorem indexLoads : Obligations.IndexLoads :=
  fun nnn _ _ hpc => ⟨loadsIndex_of_setI rfl hpc rfl (toNat_zextAddr nnn),
    loadsIndex_of_setI rfl hpc rfl (toNat_fontOffset _)⟩

/-- Settles O42: a 16-bit addition wraps modulo 65536. -/
theorem addIndexWraps : Obligations.AddIndexWraps :=
  fun _ _ hpc => loadsIndex_of_setI rfl hpc rfl (toNat_add_zextByte _ _)

end Sys2Proof.Proofs
end

section
/-! SUPPORT. The completing DXYN and its pixels, and two runs that start with different framebuffers, said once (family
45_display.md). -/

namespace Sys2Proof.Safety

open Sys2Proof.Machine

/-! The pixels of a DXYN -/

section
variable {x y : RegIdx} {n : Nibble} {s : State}

/-- The cells that the sprite of a DXYN lights. -/
def litCells (x y : RegIdx) (n : Nibble) (s : State) : List (Nat × Nat) :=
  spritePixels (s.getV x).toNat (s.getV y).toNat 0 (s.readBytes (s.addrI 0) n.toNat)

/-- On the grid the lit cells are those of `spriteOn`: column and row of a pixel are the distances from V[X] and V[Y]. -/
theorem mem_litCells {col row : Nat} (hcol : col < 64) (hrow : row < 32) :
    (col, row) ∈ litCells x y n s ↔ spriteOn x y n s col row = true := by
  have hn := n.isLt
  simp only [litCells, mem_spritePixels, State.readBytes_length, State.readBytes_getElem, spriteBit, State.addrI,
    spriteOn, Bool.and_eq_true, decide_eq_true_eq, Prod.mk.injEq, Nat.add_zero, Nat.zero_add]
  constructor
  · rintro ⟨k, hk, c, hc, hbit, hx, hy⟩
    have hcol' : (col + 64 - (s.getV x).toNat % 64) % 64 = c := by omega
    have hrow' : (row + 32 - (s.getV y).toNat % 32) % 32 = k := by omega
    rw [hcol', hrow']
    exact ⟨⟨hc, hk⟩, hbit⟩
  · rintro ⟨⟨hc, hk⟩, hbit⟩
    exact ⟨_, hk, _, hc, hbit, by omega, by omega⟩

theorem drawSprite_spec (x y : RegIdx) (n : Nibble) (s : State) :
    (∀ col row, Frame.cell (drawSprite x y n s).1 col row =
      (Frame.cell s.fb col row ^^ decide ((col, row) ∈ litCells x y n s))) ∧
    (drawSprite x y n s).2 = (litCells x y n s).any fun p => Frame.cell s.fb p.1 p.2 := by
  have hn := n.isLt
  exact drawRows_spec _ _ 0 _ (by rw [State.readBytes_length]; omega) (s.fb, false)

theorem cell_drawSprite {col row : Nat} (hcol : col < 64) (hrow : row < 32) :
    Frame.cell (drawSprite x y n s).1 col row = (Frame.cell s.fb col row ^^ spriteOn x y n s col row) := by
  rw [(drawSprite_spec x y n s).1, Bool.eq_iff_iff.2 (decide_eq_true_iff.trans (mem_litCells hcol hrow))]

/-- The collision flag is set exactly when some cell of the grid goes from 1 to 0: such a cell is lit, and a lit cell
lies on the grid. -/
theorem drawSprite_hit_iff : (drawSprite x y n s).2 = true ↔
    ∃ col row, col < 64 ∧ row < 32 ∧ Frame.cell s.fb col row = true ∧
      Frame.cell (drawSprite x y n s).1 col row = false := by
  obtain ⟨hcell, hhit⟩ := drawSprite_spec x y n s
  rw [hhit, List.any_eq_true]
  constructor
  · rintro ⟨⟨col, row⟩, hlit, hset⟩
    obtain ⟨hcol, hrow⟩ := spritePixels_grid _ hlit
    exact ⟨col, row, hcol, hrow, hset, by simpa [hcell, hlit] using hset⟩
  · rintro ⟨col, row, -, -, hset, hcleared⟩
    rw [hcell, hset] at hcleared
    exact ⟨(col, row), by simpa using hcleared, hset⟩

/-- DXYN completes where its sprite and the advanced PC lie in memory, a sprite of no rows included. -/
theorem exec_drw_completes (hpc : s.pc.toNat ≤ 4093) (hop : OperandsInMemory (.drw x y n) s) :
    exec (.drw x y n) s = .next ((effect (.drw x y n) s).setPc (BitVec.ofNat 16 (s.pc.toNat + 2))) := by
  by_cases hn : n = 0#4
  · subst hn
    exact (exec_drw_zero x y s).trans (advance_ok _ s _ hpc)
  · have hlast : lastOperand (.drw x y n) s = some (s.i.toNat + n.toNat - 1) := if_neg hn
    exact exec_memoryOperand_completes hlast (hop _ hlast) hpc

/-- Where a sprite's pixels lie depends on V[X], V[Y], I and memory alone. -/
theorem spriteOn_congr {t : State} (hx : t.getV x = s.getV x) (hy : t.getV y = s.getV y) (hi : t.i = s.i)
    (hmem : ∀ a, t.readByte a = s.readByte a) (col row : Nat) :
    spriteOn x y n t col row = spriteOn x y n s col row := by
  simp only [spriteOn, hx, hy, hi, hmem]

end

/-! The cells after an instruction -/

/-- 00E0 writes 0 to each cell, DXYN toggles the lit ones, and no other instruction writes a cell (45_display.md R162). -/
theorem cell_effect (i : Instr) (s : State) (col row : Nat) :
    Frame.cell (effect i s).fb col row = Frame.cell s.fb col row ∨
    (i = .cls ∧ Frame.cell (effect i s).fb col row = false) ∨
    (∃ x y n, i = .drw x y n ∧ Frame.cell (effect i s).fb col row = !Frame.cell s.fb col row) := by
  cases i with
  | cls => exact .inr (.inl ⟨rfl, by simp [effect, Frame.cell]⟩)
  | drw x y n =>
    have hcell : Frame.cell (effect (.drw x y n) s).fb col row = _ := (drawSprite_spec x y n s).1 col row
    by_cases hlit : (col, row) ∈ litCells x y n s
    · exact .inr (.inr ⟨x, y, n, rfl, by simp [hcell, hlit]⟩)
    · exact .inl (by simp [hcell, hlit])
  | _ => exact .inl (effect_sameBut _ s .fb (by simp [writtenBy]) col row)

/-! Two runs that differ in the framebuffer at the start -/

/-- `t` and `t'` differ only in the framebuffer and, after a DXYN, in VF. -/
def AgreeButFb (i : Instr) (t t' : State) : Prop :=
  SameBut [.v, .fb] t t' ∧ ∀ z, t'.getV z = t.getV z ∨ (z = 0xF#4 ∧ ∃ x y n, i = .drw x y n)

theorem agreeButFb_fb (i : Instr) (t : State) (f : Frame) : AgreeButFb i t { t with fb := f } :=
  ⟨by apply sameBut_of_fields <;> simp, fun _ => .inl rfl⟩

theorem AgreeButFb.setPc {i : Instr} {t t' : State} (h : AgreeButFb i t t') (a : Word) :
    AgreeButFb i (t.setPc a) (t'.setPc a) := by
  obtain ⟨hsame, hv⟩ := h
  refine ⟨fun p hp => ?_, hv⟩
  cases p with
  | pc => rfl
  | _ => exact hsame _ hp

/-- Both runs answer a next state, and the two agree. -/
inductive ResultsAgree (i : Instr) : Result → Result → Prop where
  | next {t t' : State} (h : AgreeButFb i t t') : ResultsAgree i (.next t) (.next t')

section
variable {i : Instr} {s : State} {f : Frame}

theorem resultsAgree_raise (kind : FatalKind) : ResultsAgree i (raise kind i s) (raise kind i { s with fb := f }) :=
  .next (agreeButFb_fb i (takeFatal kind (some (encode i)) s) f)

/-- A branch on a condition that both runs compute alike. -/
theorem resultsAgree_ite (c : Prop) [Decidable c] {r₁ r₂ r₁' r₂' : Result} (h₁ : ResultsAgree i r₁ r₁')
    (h₂ : ResultsAgree i r₂ r₂') : ResultsAgree i (if c then r₁ else r₂) (if c then r₁' else r₂') := by
  split
  · exact h₁
  · exact h₂

theorem resultsAgree_writePc {eff eff' : State} (a : Nat) (h : AgreeButFb i eff eff') :
    ResultsAgree i (writePc i s a eff) (writePc i { s with fb := f } a eff') :=
  resultsAgree_ite _ (.next (h.setPc _)) (resultsAgree_raise _)

theorem resultsAgree_checkAddr {r r' : Result} (a : Nat) (h : ResultsAgree i r r') :
    ResultsAgree i (checkAddr i s a r) (checkAddr i { s with fb := f } a r') :=
  resultsAgree_ite _ h (resultsAgree_raise _)

theorem resultsAgree_keySkip (x : RegIdx) (pressed : Bool) :
    ResultsAgree i (keySkip i x pressed s) (keySkip i x pressed { s with fb := f }) := by
  rw [keySkip, keySkip, show State.keyIndex { s with fb := f } x = s.keyIndex x from rfl]
  cases s.keyIndex x with
  | none => exact resultsAgree_raise _
  | some k => exact resultsAgree_writePc _ (agreeButFb_fb i s f)

end

theorem writeBytes_fb (s : State) (f : Frame) (a : Nat) (bs : List Byte) :
    State.writeBytes { s with fb := f } a bs = { s.writeBytes a bs with fb := f } := by
  induction bs generalizing s a with
  | nil => rfl
  | cons b bs ih => exact ih (s.writeByte a b) (a + 1)

/-- No instruction but DXYN computes anything from a cell, and DXYN writes what it computes to cells and to VF. -/
theorem effect_agree (i : Instr) (s : State) (f : Frame) : AgreeButFb i (effect i s) (effect i { s with fb := f }) := by
  cases i with
  | cls => exact agreeButFb_fb .cls (effect .cls s) _
  | call nnn =>
    by_cases hsp : s.sp.val < 16
    · simp only [effect, dif_pos hsp]
      exact agreeButFb_fb _ (s.pushed _ hsp) f
    · simp only [effect, dif_neg hsp]
      exact agreeButFb_fb _ s f
  | drw x y n =>
    refine ⟨?_, fun z => ?_⟩
    · apply sameBut_of_fields <;> simp [effect]
    · by_cases hz : z = vf
      · exact .inr ⟨hz, x, y, n, rfl⟩
      · exact .inl ((State.getV_setV_ne _ hz _).trans (State.getV_setV_ne _ hz _).symm)
  | ldB _ | storeRegs _ =>
    simp only [effect, writeBytes_fb]
    exact agreeButFb_fb _ _ f
  | _ => exact agreeButFb_fb _ (effect _ s) f

/-- By the guards of an execute stage, none of which looks at a cell. -/
theorem exec_agree (i : Instr) (s : State) (f : Frame) : ResultsAgree i (exec i s) (exec i { s with fb := f }) := by
  have heff := effect_agree i s f
  cases i with
  | ret => exact resultsAgree_ite _ (resultsAgree_raise _) (resultsAgree_writePc _ heff)
  | call nnn =>
    by_cases hsp : s.sp.val < 16
    · rw [exec_call_completes nnn hsp, exec_call_completes nnn (s := { s with fb := f }) hsp]
      exact .next (agreeButFb_fb _ _ f)
    · rw [show exec (.call nnn) s = _ from dif_neg hsp, show exec (.call nnn) { s with fb := f } = _ from dif_neg hsp]
      exact resultsAgree_raise _
  | skp x => exact resultsAgree_keySkip x true
  | sknp x => exact resultsAgree_keySkip x false
  | ldVxK x => exact resultsAgree_ite _ (.next (agreeButFb_fb _ _ f)) (resultsAgree_writePc _ heff)
  | drw _ _ _ | ldB _ | storeRegs _ | loadRegs _ => exact resultsAgree_checkAddr _ (resultsAgree_writePc _ heff)
  | _ => exact resultsAgree_writePc _ heff

end Sys2Proof.Safety
end

section
/-! The obligations of the family 45_display.md. -/

namespace Sys2Proof.Proofs

open Sys2Proof.Machine Sys2Proof.Safety

/-- Settles O24: the cells by the outcomes of an execute stage, the two runs by its guards and effects. -/
theorem cellsAreWrittenAndReadByDisplayInstructionsOnly :
    Obligations.CellsAreWrittenAndReadByDisplayInstructionsOnly := by
  intro i s t hexec
  refine ⟨fun col row => ?_, fun f t' hexec' => ?_⟩
  · cases exec_next_outcome hexec with
    | fatal kind => exact .inl rfl
    | waits x _ _ => exact .inl rfl
    | completes a _ _ => exact cell_effect i s col row
  · have hagree := exec_agree i s f
    rw [hexec, hexec'] at hagree
    cases hagree with
    | next h => exact h

/-- Settles O49: the effect of DXYN is `drawSprite`, whose hit is VF. -/
theorem drawXorsTheSprite : Obligations.DrawXorsTheSprite := by
  intro x y n s hpc hop
  refine ⟨_, exec_drw_completes hpc hop, fun col row hcol hrow => cell_drawSprite hcol hrow, ?_, rfl,
    toNat_pc_setPc _ (by omega), fun z hz => getV_effect (i := .drw x y n) hz s, (effect_sameBut (.drw x y n) s).setPc _⟩
  have hvf : (effect (.drw x y n) s).getV vf = flagByte (drawSprite x y n s).2 := State.getV_setV_self _ _ _
  rw [State.getV_setPc, hvf, toNat_flagByte]
  by_cases hhit : (drawSprite x y n s).2 = true
  · exact .inl ⟨congrArg Bool.toNat hhit, drawSprite_hit_iff.1 hhit⟩
  · exact .inr ⟨congrArg Bool.toNat (Bool.eq_false_of_not_eq_true hhit), fun h => hhit (drawSprite_hit_iff.2 h)⟩

/-- Settles O50, by two uses of `drawXorsTheSprite`: the first draw keeps what the sprite and its place are read from, so the
second XORs the same pixels again. -/
theorem drawingTwiceRestores : Obligations.DrawingTwiceRestores := by
  intro x y n s hpc hop hx hy
  obtain ⟨t, hexec, hcell, -, -, -, hv, hframe⟩ := drawXorsTheSprite x y n s hpc hop
  have hi : t.i = s.i := hframe .i (by simp)
  have hsprite : ∀ col row, spriteOn x y n (t.setPc s.pc) col row = spriteOn x y n s col row :=
    spriteOn_congr (hv x hx) (hv y hy) hi (hframe .mem (by simp))
  have hop' : OperandsInMemory (.drw x y n) (t.setPc s.pc) := by
    simpa [OperandsInMemory, lastOperand, hi] using hop
  obtain ⟨u, hexec', hcell', hflag, -⟩ := drawXorsTheSprite x y n (t.setPc s.pc) hpc hop'
  have hrestored : ∀ col row, col < 64 → row < 32 → Frame.cell u.fb col row = Frame.cell s.fb col row := by
    intro col row hcol hrow
    rw [hcell' col row hcol hrow, hsprite, State.setPc_fb, hcell col row hcol hrow, Bool.xor_assoc, Bool.xor_self,
      Bool.xor_false]
  refine ⟨t, u, hexec, hexec', fun col row => by rw [Frame.ext_cells hrestored], ?_⟩
  have hpixel : ∀ col row, col < 64 → row < 32 →
      (Frame.cell t.fb col row = true ∧ Frame.cell u.fb col row = false ↔
        Frame.cell s.fb col row = false ∧ spriteOn x y n s col row = true) := by
    intro col row hcol hrow
    rw [hrestored col row hcol hrow, hcell col row hcol hrow]
    cases Frame.cell s.fb col row <;> simp
  calc (u.getV 0xF#4).toNat = 1
    _ ↔ ∃ col row, col < 64 ∧ row < 32 ∧ Frame.cell t.fb col row = true ∧ Frame.cell u.fb col row = false := by
      obtain ⟨hone, hcleared⟩ | ⟨hzero, hkept⟩ := hflag
      · exact iff_of_true hone hcleared
      · exact iff_of_false (by omega) hkept
    _ ↔ ∃ col row, col < 64 ∧ row < 32 ∧ Frame.cell s.fb col row = false ∧ spriteOn x y n s col row = true :=
      exists₂_congr fun col row => and_congr_right fun hcol => and_congr_right fun hrow => hpixel col row hcol hrow

/-- Settles O48: the effect of 00E0 is a framebuffer of rows 0. -/
theorem clearScreen : Obligations.ClearScreen := by
  intro s hpc
  exact ⟨_, exec_plainAdvance_completes (i := .cls) rfl hpc, fun x y _ _ => by simp [effect, Frame.cell], rfl,
    toNat_pc_setPc _ (by omega), (effect_sameBut .cls s).setPc _⟩

end Sys2Proof.Proofs
end

section
/-! SUPPORT. A key skip with its index in range or above it, said once (family 46_keys_timers.md). -/

namespace Sys2Proof.Safety

open Sys2Proof.Machine

section
variable {x : RegIdx} {s : State}

/-- With an index in range a key skip is a skip on that key's level (46_keys_timers.md R170, R171). -/
theorem keySkip_eq_skipIf (i : Instr) (pressed : Bool) (hx : (s.getV x).toNat ≤ 15) :
    keySkip i x pressed s = skipIf i s (decide (s.keys.getLsbD (s.getV x).toNat = pressed)) := by
  rw [keySkip, State.keyIndex_some hx]
  rfl

/-- An index above 15 is fatal wherever PC stands: the check comes before the PC write (60_exceptions.md R189). -/
theorem keySkip_eq_raise (i : Instr) (pressed : Bool) (hx : 15 < (s.getV x).toNat) :
    keySkip i x pressed s = raise .keyIndexOutOfRange i s := by
  rw [keySkip, State.keyIndex_none hx]

end

end Sys2Proof.Safety
end

section
/-! The obligations of the family 46_keys_timers.md. -/

namespace Sys2Proof.Proofs

open Sys2Proof.Machine Sys2Proof.Safety

/-- Settles O54: the key chosen is pressed, whatever the preference, and it fits V[X]. -/
theorem keyWaitStoresAPressedKey : Obligations.KeyWaitStoresAPressedKey := by
  intro x s
  refine ⟨fun hkeys => ?_, fun hkeys hpc => ?_⟩
  · exact ⟨_, keyWait_none x hkeys, rfl, sameBut_setMode s _⟩
  · exact ⟨_, _, exec_ldVxK_completes x hkeys hpc, chooseKey_pressed hkeys (Config.keyChoice s.draws),
      toNat_getV_effect_ldVxK x s, rfl, toNat_pc_setPc (effect (.ldVxK x) s) (by omega),
      fun y hy => getV_effect (i := .ldVxK x) hy s, (effect_sameBut (.ldVxK x) s).setPc _⟩

/-- Settles O52: the two differ in the level on which they skip. -/
theorem keySkips : Obligations.KeySkips :=
  fun x _ hx => ⟨movesPcTo_of_skipIf (keySkip_eq_skipIf (.skp x) true hx),
    movesPcTo_of_skipIf (keySkip_eq_skipIf (.sknp x) false hx)⟩

/-- Settles O53: the index is checked first; with one in range the fault is that of any skip. -/
theorem keySkipFaults : Obligations.KeySkipFaults := by
  intro x s
  refine ⟨fun hx => ⟨?_, ?_⟩, fun hx => ⟨?_, ?_⟩⟩
  · exact faults_of_raise (keySkip_eq_raise (.skp x) true hx)
  · exact faults_of_raise (keySkip_eq_raise (.sknp x) false hx)
  · exact faults_of_skipIf (keySkip_eq_skipIf (.skp x) true hx)
  · exact faults_of_skipIf (keySkip_eq_skipIf (.sknp x) false hx)

/-- Settles O55: each of the three writes its one piece from the state before the tick, and advances. -/
theorem timerAccess : Obligations.TimerAccess := by
  intro x s hpc
  refine ⟨loadsByte_of_setV rfl hpc rfl rfl, ?_, ?_⟩
  · exact ⟨_, exec_plainAdvance_completes (i := .ldDtVx x) rfl hpc, rfl, toNat_pc_setPc _ (by omega),
      (effect_sameBut (.ldDtVx x) s).setPc _⟩
  · exact ⟨_, exec_plainAdvance_completes (i := .ldStVx x) rfl hpc, rfl, toNat_pc_setPc _ (by omega),
      (effect_sameBut (.ldStVx x) s).setPc _⟩

end Sys2Proof.Proofs
end

section
/-! SUPPORT. All that a cycle can do, with the word of the instruction it runs, said once (family 60_exceptions.md). -/

namespace Sys2Proof.Safety

open Sys2Proof.Machine

/-! The execute stage -/

theorem exec_answers_next (i : Instr) (s : State) : ∃ t, exec i s = .next t := by
  have hout := exec_outcome i s
  generalize exec i s = r at hout
  cases hout with
  | fatal _ | waits _ _ _ | completes _ _ _ => exact ⟨_, rfl⟩

/-- No execute stage sends an event out but with a fatal condition (10_state.md R42; log 7). -/
theorem exec_event {i : Instr} {s t : State} (h : exec i s = .next t) (hmode : t.mode ≠ .halted) :
    t.event = s.event := by
  cases exec_next_outcome h with
  | fatal kind => exact absurd rfl hmode
  | waits x _ _ => rfl
  | completes a _ _ => exact effect_sameBut i s .event (by cases i <;> simp [writtenBy])

/-! A cycle that runs an execute stage -/

theorem Runs.step_eq {i : Instr} {s : State} (h : Runs i s) : step s = endCycle (exec i s.beginCycle) := by
  cases h with
  | fetched w hmode hfetch hdecode => exact step_running hmode hfetch hdecode
  | waiting x hmode hi => exact hi ▸ step_blocked hmode

/-- In mode Running the word of the instruction is the fetched one (log 8). -/
theorem Runs.fetch_eq {i : Instr} {s : State} (h : Runs i s) (hmode : s.mode = .running) :
    fetch s = some (encode i) := by
  cases h with
  | fetched w _ hfetch hdecode => rw [hfetch, encode_of_decode hdecode]
  | waiting x hblocked => cases hmode.symm.trans hblocked

/-- An FX0A runs while its own wait blocks, or after it was fetched. -/
theorem Runs.blocked_or_fetched {x : RegIdx} {s : State} (h : Runs (.ldVxK x) s) :
    s.mode = .blockedOnKey x ∨ (s.mode = .running ∧ fetch s = some (encode (.ldVxK x))) := by
  cases h with
  | fetched w hmode hfetch hdecode => exact .inr ⟨hmode, Runs.fetch_eq (.fetched w hmode hfetch hdecode) hmode⟩
  | waiting y hmode hi =>
    cases hi
    exact .inl hmode

/-- An execute stage leaves the machine Halted only by a fatal condition, and that leaves the timers
(60_exceptions.md R186). -/
theorem Runs.timers_of_halted {i : Instr} {s u : State} (h : Runs i s) (hexec : exec i s.beginCycle = .next u)
    (hhalted : u.mode = .halted) : u.dt = s.dt ∧ u.st = s.st := by
  cases exec_next_outcome hexec with
  | fatal kind => exact ⟨rfl, rfl⟩
  | waits x _ _ => cases hhalted
  | completes a _ _ => cases h.effect_mode.symm.trans hhalted

/-! The outcomes of a cycle -/

/-- The four ways a cycle can end (40_cycle.md R92 to R94): nothing in mode Halted, a fatal condition without a tick, a key
wait that starts or goes on, or a completed instruction; the last two tick. -/
inductive CycleOutcome (s : State) : Result → Prop where
  | stays (hmode : s.mode = .halted) : CycleOutcome s (.next s.beginCycle)
  | fatal (kind : FatalKind) (word : Option Word) (hword : s.mode = .running → word = fetch s) :
      CycleOutcome s (.next (takeFatal kind word s.beginCycle))
  | waits (x : RegIdx) (hrun : Runs (.ldVxK x) s) (hkeys : s.keys = 0#16) :
      CycleOutcome s (.next (timerTick (s.beginCycle.setMode (.blockedOnKey x))))
  | completes (i : Instr) (a : Nat) (hrun : Runs i s) :
      CycleOutcome s (.next (timerTick ((effect i s.beginCycle).setPc (BitVec.ofNat 16 a))))

theorem Runs.cycleOutcome {i : Instr} {s : State} (h : Runs i s) :
    CycleOutcome s (endCycle (exec i s.beginCycle)) := by
  have hout := exec_outcome i s.beginCycle
  generalize exec i s.beginCycle = r at hout
  cases hout with
  | fatal kind =>
    rw [endCycle_halted rfl]
    exact .fatal kind _ fun hmode => (h.fetch_eq hmode).symm
  | waits x hi hkeys =>
    rw [endCycle_ticks (by simp)]
    exact .waits x (hi ▸ h) hkeys
  | completes a _ _ =>
    rw [endCycle_ticks (by simp [h.effect_mode])]
    exact .completes i a h

/-- All that a cycle can do. -/
theorem step_outcome (s : State) : CycleOutcome s (step s) := by
  obtain ⟨hmode, h⟩ | ⟨_, kind, h⟩ | ⟨i, hrun, h⟩ := step_cases s <;> rw [h]
  · exact .stays hmode
  · exact .fatal kind _ fun _ => rfl
  · exact hrun.cycleOutcome

theorem step_next_outcome {s t : State} (h : step s = .next t) : CycleOutcome s (.next t) :=
  h ▸ step_outcome s

/-! The timer tick -/

/-- The tick sends `tone_end` out exactly when it takes ST from 1 to 0 (60_exceptions.md R198). -/
theorem timerTick_event_toneEnd {u : State} (hevent : u.event = none) :
    (timerTick u).event = some .toneEnd ↔ u.st.toNat = 1 := by
  simp [hevent, ← BitVec.toNat_inj]

end Sys2Proof.Safety
end

section
/-! The obligations of the family 60_exceptions.md. -/

namespace Sys2Proof.Proofs

open Sys2Proof.Machine Sys2Proof.Safety

/-- Settles O11: each outcome of an execute stage, and each of a cycle, is a next state. -/
theorem everyStepAnswersNext : Obligations.EveryStepAnswersNext := by
  refine ⟨exec_answers_next, fun s => ?_⟩
  have hout := step_outcome s
  generalize step s = r at hout
  cases hout with
  | stays _ | fatal _ _ _ | waits _ _ _ | completes _ _ _ => exact ⟨_, rfl⟩

/-- Settles O12: of the outcomes of a cycle only the fatal one turns to mode Halted, and it is `Faulted`. -/
theorem fatalConditionsArePrecise : Obligations.FatalConditionsArePrecise := by
  intro s t hmode hstep hhalted
  cases step_next_outcome hstep with
  | stays hstill => exact absurd hstill hmode
  | waits x _ _ => cases hhalted
  | completes i a hrun => cases hrun.effect_mode.symm.trans hhalted
  | fatal kind word hword =>
    obtain ⟨-, hfault, hevent, hframe⟩ := takeFatal_beginCycle_faulted kind word s
    exact ⟨_, hfault, hevent, rfl, rfl, hword, hframe⟩

/-- Settles O17: a decoded instruction and a key wait both are the execute stage of some `i`; the cycle is that stage, then
the tick unless the stage was fatal. -/
theorem timersTickAtTheEndOfEachCycle : Obligations.TimersTickAtTheEndOfEachCycle := by
  refine ⟨fun s u w i x hstage => ?_, fun s hmode => ⟨_, step_halted hmode, rfl, rfl, rfl⟩⟩
  obtain ⟨j, hrun, hexec⟩ : ∃ j, Runs j s ∧ exec j s.beginCycle = .next u := by
    obtain ⟨hmode, hfetch, hdecode, hexec⟩ | ⟨hmode, hwait⟩ := hstage
    · exact ⟨i, .fetched w hmode hfetch hdecode, hexec⟩
    · exact ⟨.ldVxK x, .waiting x hmode rfl, hwait⟩
  have hstep : step s = endCycle (.next u) := hexec ▸ hrun.step_eq
  refine ⟨fun hmode => ?_, fun hhalted => ?_⟩
  · exact ⟨_, hstep.trans (endCycle_ticks hmode), tickByte_toNat _, tickByte_toNat _,
      timerTick_event_toneEnd (exec_event hexec hmode), sameBut_timerTick u⟩
  · exact ⟨hstep.trans (endCycle_halted hhalted), hrun.timers_of_halted hexec hhalted⟩

/-- Settles O22: of the outcomes of a cycle only the key wait ends in mode BlockedOnKey. -/
theorem onlyTheKeyWaitBlocks : Obligations.OnlyTheKeyWaitBlocks := by
  intro s t x hstep hblocked
  cases step_next_outcome hstep with
  | stays hmode => cases hmode.symm.trans hblocked
  | fatal kind word _ => cases hblocked
  | completes i a hrun => cases hrun.effect_mode.symm.trans hblocked
  | waits y hrun hkeys =>
    cases hblocked
    exact ⟨hkeys, hrun.blocked_or_fetched⟩

/-- Settles O10: a cycle in mode Halted only clears the event, and the other moves write the keys or the redraw flag. -/
theorem haltedIsAbsorbing : Obligations.HaltedIsAbsorbing := by
  intro m s hmode hload hfailure
  cases m with
  | cycleReq => exact ⟨_, step_halted hmode, hmode, rfl, fun _ => ⟨rfl, sameBut_beginCycle s⟩⟩
  | keysIn _ | keysClearAll | redrawAck => exact ⟨_, rfl, hmode, rfl, nofun⟩
  | resetLoad rom => exact absurd rfl (hload rom)
  | resetLoadFailure => exact absurd rfl hfailure

end Sys2Proof.Proofs
end

section
/-! SUPPORT. The ROM as listed bytes, the states after a load and after a failed one, and the redraw flag along a cycle, said
once (family 70_reset_and_hazards.md). -/

namespace Sys2Proof.Machine

/-! What unlisted addresses read as -/

theorem Memory.unlisted_font (font : Vector Byte 80) {a : Nat} (h : a < 80) : Memory.unlisted font a = font[a] :=
  dif_pos h

theorem Memory.unlisted_above (font : Vector Byte 80) {a : Nat} (h : 80 ≤ a) : Memory.unlisted font a = 0#8 :=
  dif_neg (Nat.not_lt.2 h)

theorem Memory.lookup_eq_none {a : Nat} {m : List Host.Cell} (h : ∀ c ∈ m, c.1 ≠ a) : Memory.lookup a m = none := by
  induction m with
  | nil => rfl
  | cons c m ih =>
    obtain ⟨hc, hm⟩ := List.forall_mem_cons.1 h
    exact (if_neg hc).trans (ih hm)

/-! The ROM's bytes -/

/-- A listed byte of the ROM lies where the ROM is placed and is not 0. -/
theorem mem_romCells {a : Nat} {rom : List Byte} {c : Host.Cell} (h : c ∈ romCells a rom) :
    a ≤ c.1 ∧ c.1 < a + rom.length ∧ c.2 ≠ 0#8 := by
  induction rom generalizing a with
  | nil => cases h
  | cons b bs ih =>
    have htail : c ∈ romCells (a + 1) bs → a ≤ c.1 ∧ c.1 < a + (b :: bs).length ∧ c.2 ≠ 0#8 := fun hc => by
      obtain ⟨hlow, hhigh, hne⟩ := ih hc
      rw [List.length_cons]
      exact ⟨by omega, by omega, hne⟩
    rw [romCells] at h
    split at h
    · exact htail h
    · next hb =>
      obtain rfl | hc := List.mem_cons.1 h
      · exact ⟨Nat.le_refl a, by simp, hb⟩
      · exact htail hc

theorem romCells_sorted (a : Nat) (rom : List Byte) : (romCells a rom).Pairwise fun c d => c.1 < d.1 := by
  induction rom generalizing a with
  | nil => exact .nil
  | cons b bs ih =>
    rw [romCells]
    split
    · exact ih (a + 1)
    · exact .cons (fun c hc => (mem_romCells hc).1) (ih (a + 1))

theorem lookup_romCells_below {a a' : Nat} (rom : List Byte) (h : a' < a) : Memory.lookup a' (romCells a rom) = none :=
  Memory.lookup_eq_none fun _ hc => Nat.ne_of_gt (Nat.lt_of_lt_of_le h (mem_romCells hc).1)

/-- From `a` up the listed bytes are the ROM's, then 0; a byte that is 0 is not listed and reads the same. -/
theorem getD_lookup_romCells (a k : Nat) (rom : List Byte) :
    (Memory.lookup (a + k) (romCells a rom)).getD 0#8 = rom.getD k 0#8 := by
  induction rom generalizing a k with
  | nil => rfl
  | cons b bs ih =>
    cases k with
    | zero =>
      by_cases hb : b = 0#8
      · simp [romCells, hb, lookup_romCells_below]
      · simp [romCells, hb, Memory.lookup]
    | succ k =>
      rw [← Nat.add_assoc, Nat.add_right_comm, List.getD_cons_succ, ← ih (a + 1) k]
      by_cases hb : b = 0#8
      · simp [romCells, hb]
      · simp [romCells, hb, Memory.lookup, show a ≠ a + 1 + k by omega]

/-! The state after a load, and after a failed one -/

/-- The state after a load of a ROM that fits (70_reset_and_hazards.md R210). -/
def State.loaded (s : State) (rom : List Byte) : State :=
  { s.zeroed with mem := romCells 512 rom, pc := 512#16, mode := .running }

theorem State.resetLoad_of_fits (s : State) {rom : List Byte} (h : rom.length ≤ 3584) :
    s.resetLoad rom = s.loaded rom :=
  if_pos (decide_eq_true h)

theorem State.resetLoad_of_too_large (s : State) {rom : List Byte} (h : 3584 < rom.length) :
    s.resetLoad rom = s.loadFailed .romTooLarge (some rom.length) :=
  if_neg fun hfits => absurd (of_decide_eq_true hfits) (Nat.not_le.2 h)

theorem State.readByte_loaded_below (s : State) (rom : List Byte) {a : Nat} (h : a < 512) :
    (s.loaded rom).readByte a = Memory.unlisted s.font a :=
  congrArg (Option.getD · _) (lookup_romCells_below rom h)

theorem State.readByte_loaded_rom (s : State) (rom : List Byte) (k : Nat) :
    (s.loaded rom).readByte (512 + k) = rom.getD k 0#8 := by
  rw [← getD_lookup_romCells 512 k rom, ← Memory.unlisted_above s.font (a := 512 + k) (by omega)]
  rfl

theorem State.readByte_loadFailed (s : State) (kind : FatalKind) (len : Option Nat) (a : Nat) :
    (s.loadFailed kind len).readByte a = Memory.unlisted s.font a := rfl

end Sys2Proof.Machine

namespace Sys2Proof.Safety

open Sys2Proof.Machine

theorem sameBut_loaded (s : State) (rom : List Byte) :
    SameBut [.pc, .mem, .font, .draws] State.reset (s.loaded rom) := by
  apply sameBut_of_fields <;> simp [State.loaded, State.zeroed, State.reset]

theorem sameBut_loadFailed (s : State) (kind : FatalKind) (len : Option Nat) :
    SameBut [.pc, .mode, .fault, .event, .mem, .font, .draws] State.reset (s.loadFailed kind len) := by
  apply sameBut_of_fields <;> simp [State.loadFailed, State.zeroed]

/-! The invariant under the host's moves -/

/-- The ROM's listed bytes differ from 0 and lie above the font, so they are in canonical form. -/
theorem inv_loaded (s : State) {rom : List Byte} (h : rom.length ≤ 3584) : Inv (s.loaded rom) where
  memWf := by
    refine ⟨romCells_sorted 512 rom, fun c hc => ?_⟩
    obtain ⟨hlow, -, hne⟩ := mem_romCells hc
    rwa [Memory.unlisted_above _ (by omega)]
  memRange c hc := by
    obtain ⟨-, hhigh, -⟩ := mem_romCells hc
    omega
  pcRange := show (512#16).toNat ≤ 4095 by decide
  stackRange := nofun
  faultMode := ⟨nofun, nofun⟩
  blockedWord := nofun

theorem inv_loadFailed (s : State) (kind : FatalKind) (len : Option Nat) : Inv (s.loadFailed kind len) where
  memWf := ⟨.nil, nofun⟩
  memRange := nofun
  pcRange := show (0#16).toNat ≤ 4095 by decide
  stackRange := nofun
  faultMode := ⟨fun _ => rfl, fun _ => rfl⟩
  blockedWord := nofun

theorem inv_resetLoad (s : State) (rom : List Byte) : Inv (s.resetLoad rom) := by
  by_cases hfits : rom.length ≤ 3584
  · rw [s.resetLoad_of_fits hfits]
    exact inv_loaded s hfits
  · rw [s.resetLoad_of_too_large (Nat.not_le.1 hfits)]
    exact inv_loadFailed s _ _

theorem Inv.setKeys {s : State} (h : Inv s) (ks : Keys) : Inv (s.setKeys ks) :=
  ⟨h.memWf, h.memRange, h.pcRange, h.stackRange, h.faultMode, h.blockedWord⟩

theorem Inv.redrawAck {s : State} (h : Inv s) : Inv s.redrawAck :=
  ⟨h.memWf, h.memRange, h.pcRange, h.stackRange, h.faultMode, h.blockedWord⟩

/-! The frames of the host's moves -/

theorem sameBut_setKeys (s : State) (ks : Keys) : SameBut [.keys] s (s.setKeys ks) := by
  apply sameBut_of_fields <;> simp

theorem sameBut_redrawAck (s : State) : SameBut [.redrawPending] s s.redrawAck := by
  apply sameBut_of_fields <;> simp

/-! The redraw flag along a cycle -/

/-- No instruction clears the flag: the two that write it, 00E0 and DXYN, raise it (10_state.md R34). -/
theorem effect_redrawPending_of_pending (i : Instr) {s : State} (h : s.redrawPending = true) :
    (effect i s).redrawPending = true := by
  cases i with
  | cls | drw _ _ _ => rfl
  | _ => exact Eq.trans (effect_sameBut _ s .redrawPending (by simp [writtenBy])) h

/-- Only 00E0 and DXYN change a cell, and both raise the flag. -/
theorem effect_redrawPending_of_cell_ne {i : Instr} {s : State} {col row : Nat}
    (h : Frame.cell (effect i s).fb col row ≠ Frame.cell s.fb col row) : (effect i s).redrawPending = true := by
  obtain hsame | ⟨rfl, -⟩ | ⟨x, y, n, rfl, -⟩ := cell_effect i s col row
  · exact absurd hsame h
  · rfl
  · rfl

theorem step_redrawPending_of_pending {s t : State} (hstep : step s = .next t) (h : s.redrawPending = true) :
    t.redrawPending = true := by
  cases step_next_outcome hstep with
  | stays _ | fatal _ _ _ | waits _ _ _ => exact h
  | completes i a _ => exact effect_redrawPending_of_pending i h

/-- A cycle changes cells by a completing instruction alone. -/
theorem step_redrawPending_of_cell_ne {s t : State} (hstep : step s = .next t) {col row : Nat}
    (h : Frame.cell t.fb col row ≠ Frame.cell s.fb col row) : t.redrawPending = true := by
  cases step_next_outcome hstep with
  | stays _ | fatal _ _ _ | waits _ _ _ => exact absurd rfl h
  | completes i a _ => exact effect_redrawPending_of_cell_ne (s := s.beginCycle) h

end Sys2Proof.Safety
end

section
/-! The obligations of the family 70_reset_and_hazards.md, and the sample words. -/

namespace Sys2Proof.Proofs

open Sys2Proof.Machine Sys2Proof.Safety

/-- Settles O15: a cycle by `everyStepKeepsInv`; the key moves and the acknowledge write no piece that the invariant speaks
of, and a load establishes it whatever the state before. -/
theorem hostMovesKeepInv : Obligations.HostMovesKeepInv := by
  refine ⟨fun s => rfl, fun m s => ?_, fun rom s t hload => ?_⟩
  · cases m with
    | cycleReq =>
      obtain ⟨t, hstep⟩ := everyStepAnswersNext.2 s
      exact ⟨t, hstep, fun hinv => everyStepKeepsInv s t hinv hstep⟩
    | keysIn ks => exact ⟨_, rfl, fun hinv => hinv.setKeys ks⟩
    | keysClearAll => exact ⟨_, rfl, fun hinv => hinv.setKeys 0#16⟩
    | redrawAck => exact ⟨_, rfl, Inv.redrawAck⟩
    | resetLoad rom => exact ⟨_, rfl, fun _ => inv_resetLoad s rom⟩
    | resetLoadFailure => exact ⟨_, rfl, fun _ => inv_loadFailed s _ _⟩
  · obtain hload | hload := hload <;> cases hload
    · exact inv_resetLoad s rom
    · exact inv_loadFailed s _ _

/-- Settles O57: an address below 512 reads as unlisted, one from 512 up as the ROM's byte, then as 0. -/
theorem loadPlacesTheRom : Obligations.LoadPlacesTheRom := by
  intro s rom hlen
  refine ⟨s.loaded rom, congrArg Host.Outcome.next (s.resetLoad_of_fits hlen), fun k hk => ?_, fun a ha => ?_,
    fun a hfont hout => ?_, rfl, rfl, rfl, sameBut_loaded s rom⟩
  · rw [State.readByte_loaded_rom, List.getD_eq_getElem _ _ hk]
  · rw [State.readByte_loaded_below s rom (by omega), Memory.unlisted_font _ ha]
  · obtain hlow | hhigh := hout
    · rw [State.readByte_loaded_below s rom hlow, Memory.unlisted_above _ hfont]
    · obtain ⟨k, rfl⟩ := Nat.exists_eq_add_of_le (show 512 ≤ a by omega)
      rw [State.readByte_loaded_rom, List.getD_eq_default _ _ (by omega)]

/-- Settles O58: both moves answer `loadFailed`, which lists no byte. -/
theorem rejectedLoadsHalt : Obligations.RejectedLoadsHalt := by
  intro s m kind len hmove
  have hfailed : hostMove m s = .next (s.loadFailed kind len) := by
    obtain ⟨rom, hlarge, rfl, rfl, rfl⟩ | ⟨rfl, rfl, rfl⟩ := hmove
    · exact congrArg Host.Outcome.next (s.resetLoad_of_too_large hlarge)
    · rfl
  refine ⟨_, hfailed, rfl, rfl, rfl, rfl, fun a ha => ?_, fun a ha => ?_, sameBut_loadFailed s kind len⟩
  · rw [State.readByte_loadFailed, Memory.unlisted_font _ ha]
  · rw [State.readByte_loadFailed, Memory.unlisted_above _ ha]

/-- Settles O59: along a cycle by what a completing instruction does to the flag; the key moves do not write it. -/
theorem redrawFlagIsRaisedAndAcknowledged : Obligations.RedrawFlagIsRaisedAndAcknowledged := by
  refine ⟨fun s => ⟨_, rfl, rfl, sameBut_redrawAck s⟩, fun s t hstep ⟨col, row, hne⟩ => ?_,
    fun m s t hmove hack hload hfailure hpending => ?_⟩
  · exact step_redrawPending_of_cell_ne hstep hne
  · cases m with
    | cycleReq => exact step_redrawPending_of_pending hmove hpending
    | keysIn _ | keysClearAll =>
      cases hmove
      exact hpending
    | redrawAck => exact absurd rfl hack
    | resetLoad rom => exact absurd rfl (hload rom)
    | resetLoadFailure => exact absurd rfl hfailure

/-- Settles O60: clearing the keys is setting them to 0. -/
theorem hostKeyWritesTouchOnlyKeys : Obligations.HostKeyWritesTouchOnlyKeys :=
  fun s ks => ⟨⟨_, rfl, rfl, sameBut_setKeys s ks⟩, ⟨_, rfl, rfl, sameBut_setKeys s 0#16⟩⟩

/-- Settles O2: each of the eleven words is that of the instruction named, and no row of the opcode map selects one of the
eight. -/
theorem sampleWordsDecode : Obligations.SampleWordsDecode := by
  refine ⟨decode_encode .cls, decode_encode .ret, decode_encode (.jp 0x234#12), decode_encode (.call 0x210#12),
    decode_encode (.seImm 3#4 0x2A#8), decode_encode (.sneReg 1#4 2#4), decode_encode (.addReg 0xA#4 0xB#4),
    decode_encode (.drw 9#4 0xA#4 5#4), decode_encode (.sknp 5#4), decode_encode (.loadRegs 2#4),
    decode_encode (.ldVxK 2#4), ?_, ?_, ?_, ?_, ?_, ?_, ?_, ?_⟩
  all_goals exact (decode_unrecognized_iff _).2 (by decide)

end Sys2Proof.Proofs
end
